-- ==== Sys2Proof/Word.lean ====
section
/-! DEFINITION. The word types of the DFE: what the spec treats as bits, at the widths it gives. -/

namespace Sys2Proof

/-- A command word on the command port: 32 bits (30_encoding R70). -/
abbrev Word := BitVec 32

/-- A framebuffer byte, a control byte or a payload byte (00_scope R7: a byte is 8 bits). -/
abbrev Byte := BitVec 8

/-- A response word on the response port: 16 bits (30_encoding R81). -/
abbrev ResponseWord := BitVec 16

/-- A coordinate field `xf` or `yf`: 12 bits, two's complement (30_encoding R72, R75). -/
abbrev CoordField := BitVec 12

/-- A framebuffer index: 10 bits, so exactly 0..1023, the range of `FB` (20_memory R48, 30_encoding R76). -/
abbrev FbIndex := BitVec 10

/-- A border style, as the 2-bit value of `STYLE` and of the field `sty`: 0 none, 1 thin, 2 double,
3 dashed; all four are legal (10_state R25, 30_encoding R76). -/
abbrev Style := BitVec 2

/-- A two-wire bus address: 7 bits (00_scope R6, 30_encoding R83). -/
abbrev BusAddr := BitVec 7

end Sys2Proof
end

