-- ==== Sys2Proof/Syntax.lean ====
section
/-! DEFINITION. The commands of DFE-1: one constructor per row of spec/opcode_table.json, eleven in all. -/

namespace Sys2Proof

/-- A command.  Coordinates are mathematical integers (00_scope R7); which of them a command word can
carry is `Instr.wf` (30_encoding R75, R86). -/
inductive Instr where
  /-- `CLEAR`: every pixel off (40_framebuffer R101). -/
  | clear
  /-- `PCLR x, y`: one pixel off (40_framebuffer R103). -/
  | pclr (x y : Int)
  /-- `PSET x, y`: one pixel on (40_framebuffer R102). -/
  | pset (x y : Int)
  /-- `RDB idx`: one framebuffer byte to the host (40_framebuffer R104). -/
  | rdb (idx : FbIndex)
  /-- `DSQ x, y`: the clamped filled square (42_shape_renderer R151). -/
  | dsq (x y : Int)
  /-- `DBRD sty`: the border of the given style (42_shape_renderer R156). -/
  | dbrd (sty : Style)
  /-- `DBRDR`: the border of the style in STATUS (42_shape_renderer R157). -/
  | dbrdr
  /-- `STNEXT`: the next border style (42_shape_renderer R158). -/
  | stnext
  /-- `INIT`: send the initialisation sequence (41_display_driver R124). -/
  | init
  /-- `FLUSH`: send the framebuffer (41_display_driver R127). -/
  | flush
  /-- `RDST`: read STATUS (41_display_driver R131). -/
  | rdst
  deriving DecidableEq, Repr

end Sys2Proof
end

