-- ==== Sys2Proof/WellFormed.lean ====
section
/-! DEFINITION. Which commands a command word can carry: the coordinate range of 30_encoding R75 and R86.
`idx` and `sty` are exact-width fields, so every value of theirs is legal (R76). -/

namespace Sys2Proof

/-- A coordinate in the range of a 12-bit two's complement field, -2048 to 2047 (30_encoding R75). -/
def coordOk (v : Int) : Bool := decide (-2048 ≤ v) && decide (v ≤ 2047)

/-- The check an assembler makes: it "must reject a coordinate outside that range" (30_encoding R86). -/
def Instr.wf : Instr → Bool
  | .clear => true
  | .pclr x y => coordOk x && coordOk y
  | .pset x y => coordOk x && coordOk y
  | .rdb _ => true
  | .dsq x y => coordOk x && coordOk y
  | .dbrd _ => true
  | .dbrdr => true
  | .stnext => true
  | .init => true
  | .flush => true
  | .rdst => true

/-- A well-formed command. -/
abbrev Instr.WellFormed (i : Instr) : Prop := i.wf = true

end Sys2Proof
end

