-- ==== Sys2Proof/Decode.lean ====
section
/-! DEFINITION. The opcode table, the decoder and the encoder (30_encoding R70 to R80). -/

namespace Sys2Proof

/-! ### Fields of a command word (30_encoding R70 to R74) -/

/-- `op`, bits 31:28 in every format. -/
def opField (w : Word) : BitVec 4 := w.extractLsb' 28 4
/-- Bits 27:25, reserved in formats P and S. -/
def resHigh (w : Word) : BitVec 3 := w.extractLsb' 25 3
/-- Bit 24: the selector `on` or `r` (R77). -/
def selField (w : Word) : BitVec 1 := w.extractLsb' 24 1
/-- `yf`, bits 23:12 of format P. -/
def yField (w : Word) : CoordField := w.extractLsb' 12 12
/-- `xf`, bits 11:0 of format P. -/
def xField (w : Word) : CoordField := w.extractLsb' 0 12
/-- Bits 27:0, reserved in format Z. -/
def resZ (w : Word) : BitVec 28 := w.extractLsb' 0 28
/-- Bits 27:10, reserved in format I. -/
def resI (w : Word) : BitVec 18 := w.extractLsb' 10 18
/-- `idx`, bits 9:0 of format I. -/
def idxField (w : Word) : FbIndex := w.extractLsb' 0 10
/-- Bits 23:2, reserved in format S. -/
def resS (w : Word) : BitVec 22 := w.extractLsb' 2 22
/-- `sty`, bits 1:0 of format S. -/
def styField (w : Word) : Style := w.extractLsb' 0 2

/-- `sext`: a coordinate field read as a two's complement integer (30_encoding R75). -/
def coordOfField (f : CoordField) : Int := f.toInt
/-- The field of a coordinate, `v mod 4096` (30_encoding R86). -/
def fieldOfCoord (v : Int) : CoordField := BitVec.ofInt 12 v

/-! ### Decoding -/

/-- Why a word is illegal: the classes of 30_encoding R79, by name. -/
inductive IllegalWord where
  /-- `op` in 0x0, 0xA..0xF. -/
  | unassignedOpcode
  /-- A 1 in a bit the format marks "reserved, must be 0". -/
  | reservedBit
  /-- `DSQ` with bit 24 set. -/
  | squareSelector
  /-- `DBRDR` with `sty` not 0. -/
  | styleWithCurrent
  deriving DecidableEq, Repr

/-- The result of decoding: a command, or "illegal" (30_encoding R80). -/
inductive Decoded where
  | command (i : Instr)
  | illegal (why : IllegalWord)
  deriving DecidableEq, Repr

/-- Format Z: no operand, bits 27:0 zero (R71). -/
def decodeZ (w : Word) (i : Instr) : Decoded :=
  if resZ w = 0 then .command i else .illegal .reservedBit

/-- Format P under opcode 0x2: bit 24 separates `PSET` from `PCLR` (R72, R77). -/
def decodePixel (w : Word) : Decoded :=
  if resHigh w = 0 then
    if selField w = 1 then .command (.pset (coordOfField (xField w)) (coordOfField (yField w)))
    else .command (.pclr (coordOfField (xField w)) (coordOfField (yField w)))
  else .illegal .reservedBit

/-- Format I under opcode 0x3 (R73). -/
def decodeIndex (w : Word) : Decoded :=
  if resI w = 0 then .command (.rdb (idxField w)) else .illegal .reservedBit

/-- Format P under opcode 0x4: bit 24 must be 0 (R72, R79). -/
def decodeSquare (w : Word) : Decoded :=
  if resHigh w = 0 then
    if selField w = 1 then .illegal .squareSelector
    else .command (.dsq (coordOfField (xField w)) (coordOfField (yField w)))
  else .illegal .reservedBit

/-- Format S: bit 24 separates `DBRDR`, whose `sty` must be 0, from `DBRD` (R74, R77). -/
def decodeBorder (w : Word) : Decoded :=
  if resHigh w = 0 ∧ resS w = 0 then
    if selField w = 1 then
      if styField w = 0 then .command .dbrdr else .illegal .styleWithCurrent
    else .command (.dbrd (styField w))
  else .illegal .reservedBit

/-- The decoder: total, and a function of the word alone (30_encoding R78, R79, R80). -/
def decode (w : Word) : Decoded :=
  if opField w = 0x1 then decodeZ w .clear
  else if opField w = 0x2 then decodePixel w
  else if opField w = 0x3 then decodeIndex w
  else if opField w = 0x4 then decodeSquare w
  else if opField w = 0x5 then decodeBorder w
  else if opField w = 0x6 then decodeZ w .stnext
  else if opField w = 0x7 then decodeZ w .init
  else if opField w = 0x8 then decodeZ w .flush
  else if opField w = 0x9 then decodeZ w .rdst
  else .illegal .unassignedOpcode

/-- The command a decoding result carries, if any. -/
def Decoded.instr? : Decoded → Option Instr
  | .command i => some i
  | .illegal _ => none

/-- The host's numbering: the low `nbits` bits of `w` are the command word; a command is one 32-bit word
with no byte order at the port (30_encoding R88, 20_memory R43). -/
def decodeTableWord (nbits w : Nat) : Option Instr :=
  (decode (BitVec.ofNat 32 (w % 2 ^ nbits))).instr?

/-! ### Encoding (30_encoding R71 to R74, R86) -/

/-- A format P word: opcode and selector in the top byte, then `yf`, then `xf`. -/
def encodeP (top : Byte) (x y : Int) : Word := top ++ fieldOfCoord y ++ fieldOfCoord x

/-- The word of a command.  Only a well-formed command is what its word says (R75). -/
def encode : Instr → Word
  | .clear => 0x10000000#32
  | .pclr x y => encodeP 0x20#8 x y
  | .pset x y => encodeP 0x21#8 x y
  | .rdb idx => (0x30000#20 ++ (0#2 ++ idx) : BitVec 32)
  | .dsq x y => encodeP 0x40#8 x y
  | .dbrd sty => (0x5000000#28 ++ (0#2 ++ sty) : BitVec 32)
  | .dbrdr => 0x51000000#32
  | .stnext => 0x60000000#32
  | .init => 0x70000000#32
  | .flush => 0x80000000#32
  | .rdst => 0x90000000#32

/-! ### The opcode table, as the spec prints it (30_encoding R78) -/

/-- The mnemonics of 30_encoding R78. -/
inductive Mnemonic where
  | CLEAR | PCLR | PSET | RDB | DSQ | DBRD | DBRDR | STNEXT | INIT | FLUSH | RDST
  deriving DecidableEq, Repr

/-- One row of the opcode map. -/
structure OpcodeRow where
  mnemonic : Mnemonic
  pattern  : Word
  mask     : Word
  deriving DecidableEq, Repr

/-- The opcode map of 30_encoding R78 (columns match and mask). -/
def opcodeTable : List OpcodeRow :=
  [ ⟨.CLEAR,  0x10000000#32, 0xFFFFFFFF#32⟩,
    ⟨.PCLR,   0x20000000#32, 0xFF000000#32⟩,
    ⟨.PSET,   0x21000000#32, 0xFF000000#32⟩,
    ⟨.RDB,    0x30000000#32, 0xFFFFFC00#32⟩,
    ⟨.DSQ,    0x40000000#32, 0xFF000000#32⟩,
    ⟨.DBRD,   0x50000000#32, 0xFFFFFFFC#32⟩,
    ⟨.DBRDR,  0x51000000#32, 0xFFFFFFFF#32⟩,
    ⟨.STNEXT, 0x60000000#32, 0xFFFFFFFF#32⟩,
    ⟨.INIT,   0x70000000#32, 0xFFFFFFFF#32⟩,
    ⟨.FLUSH,  0x80000000#32, 0xFFFFFFFF#32⟩,
    ⟨.RDST,   0x90000000#32, 0xFFFFFFFF#32⟩ ]

/-- A word selects a row when its masked bits are the row's pattern. -/
abbrev OpcodeRow.selectedBy (r : OpcodeRow) (w : Word) : Prop := w &&& r.mask = r.pattern

/-- The mnemonic of a command. -/
def Instr.mnemonic : Instr → Mnemonic
  | .clear => .CLEAR
  | .pclr _ _ => .PCLR
  | .pset _ _ => .PSET
  | .rdb _ => .RDB
  | .dsq _ _ => .DSQ
  | .dbrd _ => .DBRD
  | .dbrdr => .DBRDR
  | .stnext => .STNEXT
  | .init => .INIT
  | .flush => .FLUSH
  | .rdst => .RDST

end Sys2Proof
end

