-- ==== Sys2Proof/Config.lean ====
section
/-! DEFINITION. The configuration: the parameters the spec fixes (00_scope R4 to R6), the decisions it
asks a model to keep as switches (92_eei_decisions D6, D9, D14, D20; 93_implementation_defined U7, U13), the
OPEN parameters (R6, D11 to D13), and the free answer of the bus (41_display_driver R120). -/

namespace Sys2Proof

/-! ### Geometry and shape constants (00_scope R4, R5) -/

/-- Display width `W = 128` pixels. -/
def Config.width : Nat := 128
/-- Display height `H = 64` pixels. -/
def Config.height : Nat := 64
/-- Page height `PAGE_ROWS = 8` pixel rows. -/
def Config.pageRows : Nat := 8
/-- Number of pages, `NPAGES = ceil(H / 8) = 8`. -/
def Config.numPages : Nat := 8
/-- Framebuffer size, `FB_BYTES = NPAGES * W = 1024`. -/
def Config.fbBytes : Nat := 1024
/-- Side of the square, `SQ = 8`. -/
def Config.squareSide : Nat := 8
/-- Inset of the second rectangle of the double border, `INSET = 2`. -/
def Config.inset : Nat := 2
/-- Dash period, `DASH_PERIOD = 4`. -/
def Config.dashPeriod : Nat := 4
/-- Dash on-length, `DASH_ON = 2`. -/
def Config.dashOn : Nat := 2

/-! ### Bus constants (00_scope R6, 30_encoding R84) -/

/-- The control byte of a command transaction, `CTL_CMD`. -/
def Config.ctlCmd : Byte := 0x00
/-- The control byte of a data transaction, `CTL_DATA`. -/
def Config.ctlData : Byte := 0x40

/-! ### Decisions kept as switches, each at this spec's value (log 9) -/

/-- `SQUARE_ANCHOR`: what is subtracted from the operands of `DSQ` before clamping (D6; 0 here, 4 in the
other reading). -/
def Config.squareAnchor : Int := 0
/-- `INIT_CLEARS_FB`: whether the command `INIT` also clears `FB` (D9, U13; it does not). -/
def Config.initClearsFb : Bool := false
/-- `INSET_FULL_LINES`: whether the inset rectangle is drawn as four full-length lines (D20, U13; it is
not: a proper rectangle). -/
def Config.insetFullLines : Bool := false
/-- `ABORT_ON_FAIL`: whether `INIT` and `FLUSH` stop at the first failed transaction (D14, U7; they do). -/
def Config.abortOnFail : Bool := true

/-! ### The OPEN parameters (00_scope R6) -/

/-- The bus's answer to one transaction (41_display_driver R120): acknowledged as a whole, or not. -/
inductive BusAnswer where
  | ok
  | fail
  deriving DecidableEq, Repr, Inhabited

/-- One record of the parameters whose values the source does not give.  No rule assumes anything of
them but `N_INIT >= 1`, which the split of `INIT_SEQ` into a first byte and the rest says. -/
structure Config where
  /-- `BUS_ADDR`, with its default (D13). -/
  busAddr  : BusAddr := 0x3C
  /-- `INIT_SEQ[0]` (41_display_driver R122, D11). -/
  initHead : Byte
  /-- `INIT_SEQ[1..]`. -/
  initTail : List Byte
  /-- `CMD_PAGE(p)`, the command that selects page `p` (D12). -/
  cmdPage  : Fin 8 → Byte
  /-- `CMD_COL_LO` (D12). -/
  cmdColLo : Byte
  /-- `CMD_COL_HI` (D12). -/
  cmdColHi : Byte
  deriving Inhabited

/-- The initialisation sequence `INIT_SEQ` (41_display_driver R122). -/
def Config.initSeq (C : Config) : List Byte := C.initHead :: C.initTail

/-- `N_INIT`, the length of `INIT_SEQ`. -/
def Config.nInit (C : Config) : Nat := C.initSeq.length

/-- The parameters of this instance: OPEN, so no value of any of them can be proved (log 3). -/
opaque Config.machine : Config

/-- The free answer of the bus to the `n`-th transaction whose answer the state does not list
(41_display_driver R120, 93_implementation_defined U1; log 2): under no law. -/
opaque Config.busAnswer : Nat → BusAnswer

end Sys2Proof
end

