-- ==== Sys2Proof/Machine/State.lean ====
section
/-! DEFINITION. The state of the DFE as plain data, its state after reset, and the reasons a step can stop. -/

namespace Sys2Proof.Machine

/-- The framebuffer store as a list of (index, byte) pairs in one canonical form (`Memory.wf`): indices
strictly rising and below 1024, no byte 0x00; an unlisted index reads as 0x00, its reset value
(10_state R32; log 13). -/
abbrev Memory := List Host.Cell

/-- What an unlisted framebuffer byte reads as: the reset contents 0x00 (10_state R32). -/
def Memory.unlisted : Byte := 0x00

/-- The canonical form of a memory. -/
abbrev Memory.wf (m : Memory) : Prop :=
  m.Pairwise (fun c d => c.1 < d.1) ∧
  (∀ c ∈ m, c.1 < Config.fbBytes) ∧
  (∀ c ∈ m, c.2 ≠ Memory.unlisted)

/-- One transaction of the bus trace: address, control byte, payload byte and the bus's answer
(10_state R31). -/
structure Transaction where
  addr    : BusAddr
  ctl     : Byte
  payload : Byte
  answer  : BusAnswer
  deriving DecidableEq, Repr

/-- The response codes (60_exceptions R181). -/
inductive ResponseCode where
  | ok
  | errIllegal
  | errFatal
  | errState
  | errNoInit
  | errIo
  | errInitFail
  deriving DecidableEq, Repr

/-- What the host does next: presents a command word while the DFE is idle (30_encoding R70), asserts
reset (70_reset_and_hazards R210), or presents a word and asserts reset before its response (R211). -/
inductive HostInput where
  | word (w : Word)
  | reset
  | resetDuring (w : Word)
  deriving DecidableEq, Repr

/-- The state.  `fb` and the four STATUS fields are the whole architectural state (10_state R20);
`responses` and `trace` are the output histories of R31, which no rule reads; `inputs`, `busAnswers` and
`draws` are the model's own fields for what the host and the bus do next (logs 1 and 2). -/
structure State where
  /-- `FB` (10_state R21). -/
  fb         : Memory
  /-- `STATUS.STYLE` (R25). -/
  style      : Style
  /-- `STATUS.INITED` (R26). -/
  inited     : Bool
  /-- `STATUS.FATAL` (R27). -/
  fatal      : Bool
  /-- `STATUS.IOERR` (R28). -/
  ioErr      : Bool
  /-- The response stream, oldest first (R31). -/
  responses  : List ResponseWord
  /-- The bus trace, oldest first (R31). -/
  trace      : List Transaction
  /-- What the host does from here on, in order. -/
  inputs     : List HostInput
  /-- The bus's answers to the next transactions; after them, `Config.busAnswer`. -/
  busAnswers : List BusAnswer
  /-- How many answers have been drawn. -/
  draws      : Nat
  deriving DecidableEq, Repr

/-- The DFE stops on no fault: errors are response codes (60_exceptions R180), and a bus that never
answers is outside the spec (70_reset_and_hazards R227).  So there is no reason here, and no step can
answer a fault. -/
inductive Fault : Type
  deriving DecidableEq, Repr

/-- The reasons for which a step has no meaning. -/
inductive Refusal where
  /-- Raised by an arm of `exec` whose instruction has no meaning yet; no arm is such, so nobody raises
  it.  It would be safe: the machine stops where the hardware goes on. -/
  | notModelled (mnemonic : String)
  deriving DecidableEq, Repr

/-- The outcome of a step or of a command. -/
abbrev Outcome := Host.Outcome State Fault Refusal

/-- The state after reset: 10_state R32, 70_reset_and_hazards R210.  `inputs`, `busAnswers` and `draws`
are the model's own; their values here are logs 1 and 2. -/
def State.reset : State where
  fb := []
  style := 0
  inited := false
  fatal := false
  ioErr := false
  responses := []
  trace := []
  inputs := []
  busAnswers := []
  draws := 0

end Sys2Proof.Machine
end

