-- ==== Sys2Proof/Machine/Flags.lean ====
section
/-! DEFINITION. The STATUS byte, the response codes and the response word (10_state R24; 30_encoding R81;
60_exceptions R181), and the successor of a style (42_shape_renderer R158). -/

namespace Sys2Proof.Machine

/-- The STATUS byte `{0b000, IOERR, FATAL, INITED, STYLE[1:0]}` (10_state R24, 41_display_driver R131). -/
def statusByte (s : State) : Byte :=
  0#3 ++ BitVec.ofBool s.ioErr ++ BitVec.ofBool s.fatal ++ BitVec.ofBool s.inited ++ s.style

/-- The numeric value of a response code (60_exceptions R181). -/
def codeValue : ResponseCode → BitVec 4
  | .ok => 0x0
  | .errIllegal => 0x1
  | .errFatal => 0x2
  | .errState => 0x3
  | .errNoInit => 0x4
  | .errIo => 0x5
  | .errInitFail => 0x6

/-- The response word `{code[3:0], 0b0000, data[7:0]}` (30_encoding R81). -/
def responseWord (code : ResponseCode) (data : Byte) : ResponseWord := codeValue code ++ 0#4 ++ data

/-- The next style, `(STYLE + 1) mod 4` (42_shape_renderer R158). -/
def nextStyle (st : Style) : Style := st + 1

end Sys2Proof.Machine
end

