-- ==== Sys2Proof/Machine/Operands.lean ====
section
/-! DEFINITION. Operand forms: pixel addressing, the bounds rule, clamping, and the host's saturation
(20_memory R42, R44; 42_shape_renderer R150; 30_encoding R89). -/

namespace Sys2Proof.Machine

/-- `clamp(v, lo, hi)` (00_scope R7). -/
def clamp (v lo hi : Int) : Int := if v < lo then lo else if hi < v then hi else v

/-- A pixel coordinate pair in range, `0 <= x < W` and `0 <= y < H` (20_memory R44). -/
abbrev InRange (x y : Int) : Prop := 0 ≤ x ∧ x < Config.width ∧ 0 ≤ y ∧ y < Config.height

/-- `idx(x, y) = (y div 8) * W + x` for an in-range pixel (20_memory R42). -/
def pixelIndex (x y : Int) : FbIndex := BitVec.ofInt 10 (y / Config.pageRows * Config.width + x)

/-- `bit(x, y) = y mod 8` for an in-range pixel (20_memory R42). -/
def pixelBit (y : Int) : Nat := (y % Config.pageRows).toNat

/-- The one-hot byte mask `1 << (y mod 8)` (20_memory R45). -/
def pixelMask (y : Int) : Byte := 1#8 <<< pixelBit y

/-- The left edge of the square of `DSQ` (42_shape_renderer R150). -/
def squareLeft (x : Int) : Int := clamp (x - Config.squareAnchor) 0 (Config.width - Config.squareSide)

/-- The top edge of the square of `DSQ` (42_shape_renderer R150). -/
def squareTop (y : Int) : Int := clamp (y - Config.squareAnchor) 0 (Config.height - Config.squareSide)

/-- How a host reduces a wider integer to a coordinate: saturation to -2048..2047 (30_encoding R89). -/
def saturate (v : Int) : Int := clamp v (-2048) 2047

/-- The index of byte `c` of page `p`, `128 * p + c` (20_memory R41). -/
def pageIndex (p c : Nat) : FbIndex := BitVec.ofNat 10 (Config.width * p + c)

end Sys2Proof.Machine
end

