-- ==== Sys2Proof/Machine/Ops.lean ====
section
/-! DEFINITION. The named operations over the framebuffer, STATUS, the response port, the bus and the
host's inputs.  Every meaning is written over these. -/

namespace Sys2Proof.Machine

/-! ### The framebuffer store -/

/-- The byte at an index: the listed one, else the unlisted value. -/
def Memory.read : Memory → Nat → Byte
  | [], _ => Memory.unlisted
  | (b, v) :: rest, a => if b = a then v else Memory.read rest a

/-- Remove the entry of an index. -/
def Memory.erase (m : Memory) (a : Nat) : Memory := m.filter (fun c => c.1 != a)

/-- Put an entry before the first larger index. -/
def Memory.insert : Memory → Nat → Byte → Memory
  | [], a, v => [(a, v)]
  | (b, u) :: rest, a, v => if a < b then (a, v) :: (b, u) :: rest else (b, u) :: Memory.insert rest a v

/-- Write a byte, keeping the canonical form: the unlisted value removes the entry. -/
def Memory.write (m : Memory) (a : Nat) (v : Byte) : Memory :=
  if v = Memory.unlisted then Memory.erase m a else Memory.insert (Memory.erase m a) a v

/-- `MemRead(i, 1)` (20_memory R49).  The index type is exactly the primitive's domain. -/
def memRead (m : Memory) (i : FbIndex) : Byte := Memory.read m i.toNat

/-- `MemWrite(i, 1, v)` (20_memory R49). -/
def memWrite (m : Memory) (i : FbIndex) (v : Byte) : Memory := Memory.write m i.toNat v

/-! ### Pixels -/

/-- The byte a pixel write leaves: OR of the mask, or AND of its complement (20_memory R45). -/
def mergePixel (old mask : Byte) (on : Bool) : Byte := if on then old ||| mask else old &&& ~~~mask

/-- `SetPixel(x, y, on)` (20_memory R45): out of range nothing happens (R44). -/
def setPixel (m : Memory) (x y : Int) (on : Bool) : Memory :=
  if InRange x y then
    memWrite m (pixelIndex x y) (mergePixel (memRead m (pixelIndex x y)) (pixelMask y) on)
  else m

/-- `GetPixel(x, y)` (20_memory R46), off out of range (93_implementation_defined U11; log 12).  No command
uses it. -/
def getPixel (m : Memory) (x y : Int) : Bool :=
  if InRange x y then (memRead m (pixelIndex x y)).getLsbD (pixelBit y) else false

/-- Set every pixel of a list on, in order: what every shape does (42_shape_renderer, introduction). -/
def drawPixels (m : Memory) (ps : List (Int × Int)) : Memory :=
  ps.foldl (fun m p => setPixel m p.1 p.2 true) m

/-! ### STATUS and FB updates, one per field -/

def writeFb (m : Memory) (s : State) : State := { s with fb := m }
def writeStyle (st : Style) (s : State) : State := { s with style := st }
def setInited (s : State) : State := { s with inited := true }
def setFatal (s : State) : State := { s with fatal := true }
def writeIoErr (b : Bool) (s : State) : State := { s with ioErr := b }

/-! ### Responses and errors -/

/-- `Respond(code, data)` (00_scope R8, 30_encoding R81). -/
def respond (code : ResponseCode) (data : Byte) (s : State) : State :=
  { s with responses := s.responses ++ [responseWord code data] }

/-- `raise <Error>`: the DFE's whole error entry, the response with data 0x00 and nothing else
(00_scope R8, 60_exceptions R180, R192).  There is no return from it: the DFE is idle again (R193). -/
def raiseError (code : ResponseCode) (s : State) : State := respond code 0x00 s

/-- Entry into the FATAL state: `FATAL <- 1`, then the error response (60_exceptions R186, R187, R192). -/
def enterFatal (s : State) : State := raiseError .errInitFail (setFatal s)

/-- Stage 2 of the common step: the FATAL gate of every command but `RDST` (40_framebuffer R100,
60_exceptions R186). -/
def unlessFatal (body : State → State) (s : State) : State :=
  if s.fatal then raiseError .errFatal s else body s

/-! ### The bus -/

/-- The answer the bus gives to the `k`-th transaction from here (41_display_driver R120): the listed
one, else the free value (log 2). -/
def answerAt (s : State) (k : Nat) : BusAnswer := (s.busAnswers[k]?).getD (Config.busAnswer (s.draws + k))

/-- Record one transaction with its answer (41_display_driver R120), whose answer is used up. -/
def logTransaction (t : Transaction) (s : State) : State :=
  { s with trace := s.trace ++ [t], busAnswers := s.busAnswers.drop 1, draws := s.draws + 1 }

/-- `BusWrite(a, c, d)` (41_display_driver R120). -/
def busWrite (a : BusAddr) (c d : Byte) (s : State) : BusAnswer × State :=
  (answerAt s 0, logTransaction ⟨a, c, d, answerAt s 0⟩ s)

/-- One element of a payload stream: a (kind, byte) pair (30_encoding R85). -/
inductive BusItem where
  | command (b : Byte)
  | data (b : Byte)
  deriving DecidableEq, Repr

/-- The control byte that frames an item (30_encoding R84). -/
def itemCtl : BusItem → Byte
  | .command _ => Config.ctlCmd
  | .data _ => Config.ctlData

/-- The payload byte of an item. -/
def itemPayload : BusItem → Byte
  | .command b => b
  | .data b => b

/-- `SendCmd(b)` and `SendData(b)` (41_display_driver R121). -/
def sendItem (C : Config) (it : BusItem) (s : State) : BusAnswer × State :=
  busWrite C.busAddr (itemCtl it) (itemPayload it) s

/-- Send items in order, each in its own transaction (30_encoding R85), stopping at the first failure
(41_display_driver R130; with `ABORT_ON_FAIL` off the rest is sent and the failure reported after it). -/
def sendAll (C : Config) : List BusItem → State → BusAnswer × State
  | [], s => (.ok, s)
  | it :: rest, s =>
    match sendItem C it s with
    | (.ok, s1) => sendAll C rest s1
    | (.fail, s1) => (.fail, if Config.abortOnFail then s1 else (sendAll C rest s1).2)

/-! ### The host's side -/

/-- Take the host's next input, if it has one. -/
def takeInput (s : State) : Option (HostInput × State) :=
  match s.inputs with
  | [] => none
  | e :: rest => some (e, { s with inputs := rest })

/-- Reset (70_reset_and_hazards R210): every piece of architectural state and both histories at their
reset values.  What the host and the bus do next is not the DFE's state and goes on (log 7). -/
def applyReset (s : State) : State :=
  { State.reset with inputs := s.inputs, busAnswers := s.busAnswers, draws := s.draws }

/-- An illegal word: stage 1 of the common step (40_framebuffer R100, 60_exceptions R182). -/
def answerIllegal (s : State) : State := raiseError .errIllegal s

end Sys2Proof.Machine
end

