-- ==== Sys2Proof/Machine/Driver.lean ====
section
/-! DEFINITION. The display driver: the traffic of the two long commands, and INIT, FLUSH, RDST
(41_display_driver R122 to R131). -/

namespace Sys2Proof.Machine

/-- The initialisation traffic: every byte of `INIT_SEQ` as a command, ascending (41_display_driver R123). -/
def initItems (C : Config) : List BusItem := C.initSeq.map .command

/-- `PageSeq(p)`: the three addressing commands, then the page's bytes in column order
(41_display_driver R128). -/
def pageItems (C : Config) (m : Memory) (p : Fin 8) : List BusItem :=
  [.command (C.cmdPage p), .command C.cmdColLo, .command C.cmdColHi] ++
    (List.range Config.width).map fun c => .data (memRead m (pageIndex p c))

/-- The traffic of a complete flush: the pages in ascending order (41_display_driver R128). -/
def flushItems (C : Config) (m : Memory) : List BusItem := (List.finRange 8).flatMap (pageItems C m)

/-- The body of `INIT` after its gates (41_display_driver R124). -/
def initBody (C : Config) (s : State) : State :=
  match sendAll C (initItems C) (if Config.initClearsFb then writeFb [] s else s) with
  | (.ok, s1) => respond .ok 0x00 (setInited s1)
  | (.fail, s1) => enterFatal s1

/-- The body of `FLUSH` after its gates (41_display_driver R127). -/
def flushBody (C : Config) (s : State) : State :=
  match sendAll C (flushItems C s.fb) s with
  | (.ok, s1) => respond .ok 0x00 (writeIoErr false s1)
  | (.fail, s1) => raiseError .errIo (writeIoErr true s1)

/-- `INIT`: refused when `INITED = 1` (41_display_driver R124, R125). -/
def execInit (s : State) : Outcome :=
  .next (unlessFatal (fun s => if s.inited then raiseError .errState s else initBody Config.machine s) s)

/-- `FLUSH`: refused when `INITED = 0` (41_display_driver R126, R127). -/
def execFlush (s : State) : Outcome :=
  .next (unlessFatal (fun s => if s.inited then flushBody Config.machine s else raiseError .errNoInit s) s)

/-- `RDST`: no gate at all (41_display_driver R131). -/
def execRdst (s : State) : Outcome := .next (respond .ok (statusByte s) s)

end Sys2Proof.Machine
end

