-- ==== Sys2Proof/Machine/Framebuffer.lean ====
section
/-! DEFINITION. The framebuffer commands CLEAR, PSET, PCLR, RDB (40_framebuffer R101 to R104). -/

namespace Sys2Proof.Machine

/-- `CLEAR`: every byte 0x00, which in canonical form is no entry at all (40_framebuffer R101). -/
def execClear (s : State) : Outcome :=
  .next (unlessFatal (fun s => respond .ok 0x00 (writeFb [] s)) s)

/-- `PSET x, y` (40_framebuffer R102). -/
def execPset (x y : Int) (s : State) : Outcome :=
  .next (unlessFatal (fun s => respond .ok 0x00 (writeFb (setPixel s.fb x y true) s)) s)

/-- `PCLR x, y` (40_framebuffer R103). -/
def execPclr (x y : Int) (s : State) : Outcome :=
  .next (unlessFatal (fun s => respond .ok 0x00 (writeFb (setPixel s.fb x y false) s)) s)

/-- `RDB idx` (40_framebuffer R104). -/
def execRdb (idx : FbIndex) (s : State) : Outcome :=
  .next (unlessFatal (fun s => respond .ok (memRead s.fb idx) s) s)

end Sys2Proof.Machine
end

