-- ==== Sys2Proof/Machine/Renderer.lean ====
section
/-! DEFINITION. The shape renderer: the pixel sets of the square and the borders, and the commands DSQ,
DBRD, DBRDR, STNEXT (42_shape_renderer R150 to R159). -/

namespace Sys2Proof.Machine

/-- The pixels of the square with a given top-left corner, row by row (42_shape_renderer R151). -/
def squarePixels (left top : Int) : List (Int × Int) :=
  (List.range Config.squareSide).flatMap fun (dy : Nat) =>
    (List.range Config.squareSide).map fun (dx : Nat) => (left + (dx : Int), top + (dy : Int))

/-- The coordinates `lo .. hi - 1`, ascending. -/
def coords (lo hi : Nat) : List Int := (List.range' lo (hi - lo)).map fun (n : Nat) => (n : Int)

/-- The two rows `top` and `bottom` over the given columns, then the two columns `left` and `right` over
the given rows: the nominal order of 42_shape_renderer R159. -/
def outline (xs ys : List Int) (left right top bottom : Int) : List (Int × Int) :=
  xs.flatMap (fun x => [(x, top), (x, bottom)]) ++ ys.flatMap (fun y => [(left, y), (right, y)])

/-- `Thin`: rows 0 and 63, columns 0 and 127 (42_shape_renderer R153). -/
def thinPixels : List (Int × Int) :=
  outline (coords 0 Config.width) (coords 0 Config.height) 0 (Config.width - 1) 0 (Config.height - 1)

/-- `Inset`: the outline of the rectangle from (2, 2) to (125, 61) (42_shape_renderer R154); with
`INSET_FULL_LINES` the same four lines at full length (92_eei_decisions D20). -/
def insetPixels : List (Int × Int) :=
  let cut := if Config.insetFullLines then 0 else Config.inset
  outline (coords cut (Config.width - cut)) (coords cut (Config.height - cut))
    Config.inset (Config.width - 1 - Config.inset) Config.inset (Config.height - 1 - Config.inset)

/-- A coordinate along an edge at which the dashed border is on: `v mod 4 <= 1`
(42_shape_renderer R155). -/
def dashIsOn (v : Int) : Bool := decide (v % Config.dashPeriod < Config.dashOn)

/-- `Dashed`: the thin lines less the coordinates at which the dash is off (42_shape_renderer R155). -/
def dashedPixels : List (Int × Int) :=
  outline ((coords 0 Config.width).filter dashIsOn) ((coords 0 Config.height).filter dashIsOn)
    0 (Config.width - 1) 0 (Config.height - 1)

/-- The pixels of a border style (42_shape_renderer R159): none, thin, double, dashed. -/
def borderPixels (st : Style) : List (Int × Int) :=
  if st = 1 then thinPixels
  else if st = 2 then thinPixels ++ insetPixels
  else if st = 3 then dashedPixels
  else []

/-- `DrawBorder(s)` (42_shape_renderer R159). -/
def drawBorder (m : Memory) (st : Style) : Memory := drawPixels m (borderPixels st)

/-- The filled square of `DSQ`, clamped (42_shape_renderer R150, R151). -/
def drawSquare (m : Memory) (x y : Int) : Memory := drawPixels m (squarePixels (squareLeft x) (squareTop y))

/-- `DSQ x, y` (42_shape_renderer R151). -/
def execDsq (x y : Int) (s : State) : Outcome :=
  .next (unlessFatal (fun s => respond .ok 0x00 (writeFb (drawSquare s.fb x y) s)) s)

/-- `DBRD sty` (42_shape_renderer R156). -/
def execDbrd (sty : Style) (s : State) : Outcome :=
  .next (unlessFatal (fun s => respond .ok 0x00 (writeFb (drawBorder s.fb sty) s)) s)

/-- `DBRDR`: the style is read once, from STATUS (42_shape_renderer R157). -/
def execDbrdr (s : State) : Outcome :=
  .next (unlessFatal (fun s => respond .ok 0x00 (writeFb (drawBorder s.fb s.style) s)) s)

/-- `STNEXT` (42_shape_renderer R158). -/
def execStnext (s : State) : Outcome :=
  .next (unlessFatal (fun s => respond .ok 0x00 (writeStyle (nextStyle s.style) s)) s)

end Sys2Proof.Machine
end

