-- ==== Sys2Proof/Machine/Dispatch.lean ====
section
/-! DEFINITION. One arm per command: each calls its meaning (stages 2 to 4 of 40_framebuffer R100). -/

namespace Sys2Proof.Machine

def exec (i : Instr) (s : State) : Host.Outcome State Fault Refusal :=
  match i with
  | .clear => Sys2Proof.Machine.execClear s
  | .pclr x y => Sys2Proof.Machine.execPclr x y s
  | .pset x y => Sys2Proof.Machine.execPset x y s
  | .rdb idx => Sys2Proof.Machine.execRdb idx s
  | .dsq x y => Sys2Proof.Machine.execDsq x y s
  | .dbrd sty => Sys2Proof.Machine.execDbrd sty s
  | .dbrdr => Sys2Proof.Machine.execDbrdr s
  | .stnext => Sys2Proof.Machine.execStnext s
  | .init => Sys2Proof.Machine.execInit s
  | .flush => Sys2Proof.Machine.execFlush s
  | .rdst => Sys2Proof.Machine.execRdst s

end Sys2Proof.Machine
end

