-- ==== Sys2Proof/Machine/Step.lean ====
section
/-! DEFINITION. One step: the host's next input, taken to completion (00_scope R9, 40_framebuffer R100). -/

namespace Sys2Proof.Machine

/-- One step.  A command word is decoded and executed to its response; with no input the DFE stays idle
(10_state R32); a reset, whether it finds the DFE idle or running the word the host has just presented,
leaves the reset state and no response (70_reset_and_hazards R210, R211). -/
def step (s : State) : Host.Outcome State Fault Refusal :=
  match takeInput s with
  | none => .next s
  | some (.word w, s1) =>
    match decode w with
    | .command i => exec i s1
    | .illegal _ => .next (answerIllegal s1)
  | some (.reset, s1) => .next (applyReset s1)
  | some (.resetDuring _, s1) => .next (applyReset s1)

/-- `s` with a command word as the host's next input, before everything else the host does (log 1). -/
def State.withFetchWord (s : State) (nbits w : Nat) : State :=
  { s with inputs := .word (BitVec.ofNat 32 (w % 2 ^ nbits)) :: s.inputs }

end Sys2Proof.Machine
end

