-- ==== Sys2Proof/Machine/Assembler.lean ====
section
/-! DEFINITION. The host's notation for commands: assembling, the pseudo-instructions, the reduction of
wider integers, and the line syntax (30_encoding R86, R87, R89).  No step uses anything here. -/

namespace Sys2Proof.Machine

/-- The word of a command; an operand no word can carry is rejected, not truncated (30_encoding R86). -/
def assemble (i : Instr) : Option Word := if i.wf then some (encode i) else none

/-- `set_pixel(x, y, on)` of any integers, as the word a host sends for it: saturated, never truncated
(30_encoding R89). -/
def pixelWord (x y : Int) (on : Bool) : Word :=
  encode (if on then .pset (saturate x) (saturate y) else .pclr (saturate x) (saturate y))

/-- `draw_square(x, y)` of any integers, as the word a host sends for it (30_encoding R89). -/
def squareWord (x y : Int) : Word := encode (.dsq (saturate x) (saturate y))

/-! ### Pseudo-instructions (30_encoding R87) -/

inductive Pseudo where
  /-- `SETPX x, y, on`. -/
  | setpx (x y : Int) (on : Bool)
  /-- `FRAME style, x, y`. -/
  | frame (sty : Style) (x y : Int)
  /-- `FRAMER x, y`. -/
  | framer (x y : Int)
  deriving DecidableEq, Repr

/-- The commands a pseudo-instruction stands for, in order. -/
def expand : Pseudo → List Instr
  | .setpx x y on => [if on then .pset x y else .pclr x y]
  | .frame sty x y => [.clear, .dbrd sty, .dsq x y, .flush]
  | .framer x y => [.clear, .dbrdr, .dsq x y, .flush]

/-- What a host does with a list of commands: it presents their words one at a time (30_encoding R70). -/
def presented (is : List Instr) : List HostInput := is.map fun i => .word (encode i)

/-! ### The line syntax (30_encoding R86; details the spec leaves open are log 18) -/

/-- A space or a tab. -/
def isBlank (c : Char) : Bool := c == ' ' || c == '\t'

/-- Without blanks at either end. -/
def trimBlanks (cs : List Char) : List Char := ((cs.dropWhile isBlank).reverse.dropWhile isBlank).reverse

/-- The text before a comment: `;` starts one. -/
def beforeComment (cs : List Char) : List Char := cs.takeWhile (fun c => c != ';')

/-- Split at every comma. -/
def splitCommas : List Char → List (List Char)
  | [] => [[]]
  | c :: cs =>
    if c = ',' then [] :: splitCommas cs
    else match splitCommas cs with
      | [] => [[c]]
      | p :: ps => (c :: p) :: ps

/-- The operands after a mnemonic: none, or separated by commas. -/
def operandsOf (cs : List Char) : List (List Char) :=
  if trimBlanks cs = [] then [] else (splitCommas cs).map trimBlanks

/-- The value of a digit. -/
def digitOf (c : Char) : Option Nat :=
  if '0' ≤ c ∧ c ≤ '9' then some (c.toNat - 48)
  else if 'a' ≤ c ∧ c ≤ 'f' then some (c.toNat - 87)
  else if 'A' ≤ c ∧ c ≤ 'F' then some (c.toNat - 55)
  else none

/-- Digits in a base, after a value already read. -/
def digitsOf (base : Nat) : Nat → List Char → Option Nat
  | acc, [] => some acc
  | acc, c :: cs =>
    match digitOf c with
    | some d => if d < base then digitsOf base (acc * base + d) cs else none
    | none => none

/-- An unsigned numeral, decimal or `0x`. -/
def numeralOf : List Char → Option Nat
  | [] => none
  | ['0', 'x'] => none
  | '0' :: 'x' :: cs => digitsOf 16 0 cs
  | cs => digitsOf 10 0 cs

/-- A coordinate: a numeral, negative ones allowed, in the range of the field. -/
def coordOf (cs : List Char) : Option Int :=
  let v : Option Int := match cs with
    | '-' :: ds => (numeralOf ds).map fun n => -(n : Int)
    | ds => (numeralOf ds).map fun n => (n : Int)
  v.filter coordOk

/-- An index in 0..1023. -/
def indexOf (cs : List Char) : Option FbIndex :=
  ((numeralOf cs).filter (fun n => decide (n < Config.fbBytes))).map (BitVec.ofNat 10)

/-- A style: a name, or a numeral in 0..3. -/
def styleOf (cs : List Char) : Option Style :=
  if cs = ['n', 'o', 'n', 'e'] then some 0
  else if cs = ['t', 'h', 'i', 'n'] then some 1
  else if cs = ['d', 'o', 'u', 'b', 'l', 'e'] then some 2
  else if cs = ['d', 'a', 's', 'h', 'e', 'd'] then some 3
  else ((numeralOf cs).filter (fun n => decide (n < 4))).map (BitVec.ofNat 2)

/-- The value operand of `SETPX`. -/
def onOf (cs : List Char) : Option Bool :=
  if cs = ['1'] then some true else if cs = ['0'] then some false else none

/-- The commands of a mnemonic, or pseudo-mnemonic, with its operands. -/
def commandsOf (mn : List Char) (ops : List (List Char)) : Option (List Instr) :=
  match mn, ops with
  | ['C', 'L', 'E', 'A', 'R'], [] => some [.clear]
  | ['P', 'C', 'L', 'R'], [x, y] => (coordOf x).bind fun x => (coordOf y).map fun y => [.pclr x y]
  | ['P', 'S', 'E', 'T'], [x, y] => (coordOf x).bind fun x => (coordOf y).map fun y => [.pset x y]
  | ['R', 'D', 'B'], [i] => (indexOf i).map fun i => [.rdb i]
  | ['D', 'S', 'Q'], [x, y] => (coordOf x).bind fun x => (coordOf y).map fun y => [.dsq x y]
  | ['D', 'B', 'R', 'D'], [s] => (styleOf s).map fun s => [.dbrd s]
  | ['D', 'B', 'R', 'D', 'R'], [] => some [.dbrdr]
  | ['S', 'T', 'N', 'E', 'X', 'T'], [] => some [.stnext]
  | ['I', 'N', 'I', 'T'], [] => some [.init]
  | ['F', 'L', 'U', 'S', 'H'], [] => some [.flush]
  | ['R', 'D', 'S', 'T'], [] => some [.rdst]
  | ['S', 'E', 'T', 'P', 'X'], [x, y, b] =>
    (coordOf x).bind fun x => (coordOf y).bind fun y => (onOf b).map fun b => expand (.setpx x y b)
  | ['F', 'R', 'A', 'M', 'E'], [s, x, y] =>
    (styleOf s).bind fun s => (coordOf x).bind fun x => (coordOf y).map fun y => expand (.frame s x y)
  | ['F', 'R', 'A', 'M', 'E', 'R'], [x, y] =>
    (coordOf x).bind fun x => (coordOf y).map fun y => expand (.framer x y)
  | _, _ => none

/-- One line of text: its words, none for a line that says nothing, a rejection otherwise. -/
def assembleLine (line : List Char) : Option (List Word) :=
  let body := trimBlanks (beforeComment line)
  if body = [] then some []
  else
    let mn := body.takeWhile (fun c => !isBlank c)
    (commandsOf mn (operandsOf (body.drop mn.length))).bind fun is => is.mapM assemble

end Sys2Proof.Machine
end

