-- ==== Sys2Proof/Safety.lean ====
section
/-! DEFINITION. The terms in which claims are made: frames, the state invariant, which answers the bus
gives, the pixel sets and byte masks as the spec writes them, and the outside controller. -/

namespace Sys2Proof.Machine

/-! ### Frames -/

/-- The four STATUS fields are unchanged. -/
def SameStatus (s t : State) : Prop :=
  t.style = s.style ∧ t.inited = s.inited ∧ t.fatal = s.fatal ∧ t.ioErr = s.ioErr

/-- Every byte of `FB` is unchanged. -/
def SameFb (s t : State) : Prop := ∀ i : FbIndex, memRead t.fb i = memRead s.fb i

/-- No transaction was issued and no answer drawn. -/
def SameBus (s t : State) : Prop := t.trace = s.trace ∧ t.busAnswers = s.busAnswers ∧ t.draws = s.draws

/-- The host's inputs to come are unchanged. -/
def SameInputs (s t : State) : Prop := t.inputs = s.inputs

/-- Exactly one response was produced, this one. -/
def Answered (s t : State) (r : ResponseWord) : Prop := t.responses = s.responses ++ [r]

/-- `s` with one more response and nothing else changed: what a refusal leaves (60_exceptions R192), and a
command that only reads. -/
def answeredWith (r : ResponseWord) (s : State) : State := { s with responses := s.responses ++ [r] }

/-! ### The invariant -/

/-- A response word as the DFE makes them: code 0 to 6, bits 11:8 zero, data 0x00 in an error
(30_encoding R81, 60_exceptions R180, R181). -/
def ResponseOk (r : ResponseWord) : Prop :=
  r.extractLsb' 12 4 ≤ 6#4 ∧ r.extractLsb' 8 4 = 0#4 ∧ (r.extractLsb' 12 4 ≠ 0#4 → r.extractLsb' 0 8 = 0#8)

/-- A transaction as the DFE makes them: to `BUS_ADDR`, with one of the two control bytes
(30_encoding R83, R84). -/
def TransactionOk (t : Transaction) : Prop :=
  t.addr = Config.machine.busAddr ∧ (t.ctl = 0x00 ∨ t.ctl = 0x40)

/-- What every step keeps: the canonical form of `FB`; `INITED` and `FATAL` never both 1 (10_state R27);
`IOERR` only with `INITED` (41_display_driver R131); responses and transactions well made. -/
structure StateInv (s : State) : Prop where
  fbCanonical : Memory.wf s.fb
  notBoth     : ¬ (s.inited = true ∧ s.fatal = true)
  ioErrInited : s.ioErr = true → s.inited = true
  responsesOk : ∀ r ∈ s.responses, ResponseOk r
  traceOk     : ∀ t ∈ s.trace, TransactionOk t

/-! ### The bus's answers -/

/-- The next `n` transactions are all acknowledged. -/
def AnswersOk (s : State) (n : Nat) : Prop := ∀ k < n, answerAt s k = .ok

/-- The first failure among the next transactions is number `k`, counted from 0. -/
def FirstFail (s : State) (k : Nat) : Prop := AnswersOk s k ∧ answerAt s k = .fail

/-- The transaction that carries an item, with its answer. -/
def transactionOf (C : Config) (it : BusItem) (a : BusAnswer) : Transaction :=
  ⟨C.busAddr, itemCtl it, itemPayload it, a⟩

/-- Transaction number `t` of a complete flush, by position: `p = t div 131`, `k = t mod 131`
(41_display_driver R128). -/
def flushTransaction (C : Config) (m : Memory) (t : Nat) (a : BusAnswer) : Transaction :=
  let p := t / 131
  let k := t % 131
  if k = 0 then ⟨C.busAddr, 0x00, C.cmdPage (Fin.ofNat 8 p), a⟩
  else if k = 1 then ⟨C.busAddr, 0x00, C.cmdColLo, a⟩
  else if k = 2 then ⟨C.busAddr, 0x00, C.cmdColHi, a⟩
  else ⟨C.busAddr, 0x40, memRead m (BitVec.ofNat 10 (128 * p + (k - 3))), a⟩

/-- Transaction number `i` of a complete initialisation (41_display_driver R123). -/
def initTransaction (C : Config) (i : Nat) (a : BusAnswer) : Transaction :=
  ⟨C.busAddr, 0x00, C.initSeq.getD i 0x00, a⟩

/-! ### Illegal words, class by class (30_encoding R79) -/

/-- The opcode of a word, bits 31:28, as a number. -/
def opNat (w : Word) : Nat := w.toNat / 2 ^ 28

/-- Bits `hi` down to `lo` of a word, as a number (00_scope R7). -/
def bitsNat (w : Word) (hi lo : Nat) : Nat := w.toNat / 2 ^ lo % 2 ^ (hi + 1 - lo)

/-- The words 30_encoding R79 lists as illegal. -/
def IllegalClass (w : Word) : Prop :=
  opNat w = 0x0 ∨ 0xA ≤ opNat w ∨
  ((opNat w = 0x1 ∨ (0x6 ≤ opNat w ∧ opNat w ≤ 0x9)) ∧ bitsNat w 27 0 ≠ 0) ∨
  ((opNat w = 0x2 ∨ opNat w = 0x4) ∧ bitsNat w 27 25 ≠ 0) ∨
  (opNat w = 0x3 ∧ bitsNat w 27 10 ≠ 0) ∨
  (opNat w = 0x5 ∧ (bitsNat w 27 25 ≠ 0 ∨ bitsNat w 23 2 ≠ 0)) ∨
  (opNat w = 0x4 ∧ bitsNat w 24 24 = 1) ∨
  (opNat w = 0x5 ∧ bitsNat w 24 24 = 1 ∧ bitsNat w 1 0 ≠ 0)

/-! ### Shapes as sets of pixels and as bytes (42_shape_renderer R151 to R155) -/

/-- The square with top-left corner `(left, top)`. -/
def InSquare (left top x y : Int) : Prop := left ≤ x ∧ x ≤ left + 7 ∧ top ≤ y ∧ y ≤ top + 7

/-- `Thin` (R153). -/
def OnThin (x y : Int) : Prop :=
  (0 ≤ x ∧ x ≤ 127 ∧ (y = 0 ∨ y = 63)) ∨ (0 ≤ y ∧ y ≤ 63 ∧ (x = 0 ∨ x = 127))

/-- `Inset` (R154). -/
def OnInset (x y : Int) : Prop :=
  (2 ≤ x ∧ x ≤ 125 ∧ (y = 2 ∨ y = 61)) ∨ (2 ≤ y ∧ y ≤ 61 ∧ (x = 2 ∨ x = 125))

/-- `Dashed` (R155). -/
def OnDashed (x y : Int) : Prop :=
  (0 ≤ x ∧ x ≤ 127 ∧ x % 4 ≤ 1 ∧ (y = 0 ∨ y = 63)) ∨ (0 ≤ y ∧ y ≤ 63 ∧ y % 4 ≤ 1 ∧ (x = 0 ∨ x = 127))

/-- The pixels of a border style (R159). -/
def OnBorder (st : Style) (x y : Int) : Prop :=
  (st = 1 ∧ OnThin x y) ∨ (st = 2 ∧ (OnThin x y ∨ OnInset x y)) ∨ (st = 3 ∧ OnDashed x y)

/-- The byte that the square with corner `(left, top)` ORs into `FB[i]` (R152). -/
def squareByte (left top : Nat) (i : FbIndex) : Byte :=
  let p := i.toNat / 128
  let c := i.toNat % 128
  let r := top % 8
  if left ≤ c ∧ c ≤ left + 7 then
    if p = top / 8 then 0xFF#8 <<< r
    else if r ≠ 0 ∧ p = top / 8 + 1 then 0xFF#8 >>> (8 - r)
    else 0x00
  else 0x00

/-! ### The display controller, outside the DFE (20_memory R59) -/

/-- A chip that receives acknowledged transactions: its display RAM by page and column, and its page and
column pointers.  The DFE never reads it (10_state R30). -/
structure DisplayController (σ : Type) where
  receive : σ → Transaction → σ
  ram     : σ → Nat → Nat → Byte
  page    : σ → Nat
  col     : σ → Nat

/-- What is assumed of the controller (log 14): (i) the three addressing commands mean page `p`, column 0
(20_memory R59), and touch no RAM (R53: the RAM changes only by data transactions); (ii) a data byte goes to
the addressed location alone (30_encoding R84), and the column pointer advances by one within the page
(20_memory R59).  What happens past column 127 is left open. -/
structure DisplayController.Addresses {σ : Type} (D : DisplayController σ) (C : Config) : Prop where
  address : ∀ (d : σ) (p : Fin 8),
    let d' := D.receive (D.receive (D.receive d (transactionOf C (.command (C.cmdPage p)) .ok))
      (transactionOf C (.command C.cmdColLo) .ok)) (transactionOf C (.command C.cmdColHi) .ok)
    D.page d' = p ∧ D.col d' = 0 ∧ D.ram d' = D.ram d
  store : ∀ (d : σ) (b : Byte), D.col d < 128 →
    ∀ p c, D.ram (D.receive d (transactionOf C (.data b) .ok)) p c =
      if p = D.page d ∧ c = D.col d then b else D.ram d p c
  advance : ∀ (d : σ) (b : Byte), D.col d < 127 →
    D.page (D.receive d (transactionOf C (.data b) .ok)) = D.page d ∧
    D.col (D.receive d (transactionOf C (.data b) .ok)) = D.col d + 1

end Sys2Proof.Machine
end

