-- ==== Sys2Proof/Certificates/Slice0/Obligations.lean ====
section
/-! DEFINITION. The statements about the model, for the provers.  Each docstring names the rule it
formalises. -/

open Sys2Proof Sys2Proof.Machine

/-! ## Encoding -/

/-- Words written out bit by bit from 30_encoding R71 to R78, one for each command and one for each class
of illegal word, decode to what they stand for. -/
def Obligations.SampleWordsDecodeAsWritten : Prop :=
  decode 0b00010000000000000000000000000000#32 = .command .clear ∧
  decode 0b00100000000000001010000000000101#32 = .command (.pclr 5 10) ∧
  decode 0b00100001000000000000111111111111#32 = .command (.pset (-1) 0) ∧
  decode 0b00110000000000000000000110111100#32 = .command (.rdb 444) ∧
  decode 0b01000000111111111011000011001000#32 = .command (.dsq 200 (-5)) ∧
  decode 0b01010000000000000000000000000011#32 = .command (.dbrd 3) ∧
  decode 0b01010001000000000000000000000000#32 = .command .dbrdr ∧
  decode 0b01100000000000000000000000000000#32 = .command .stnext ∧
  decode 0b01110000000000000000000000000000#32 = .command .init ∧
  decode 0b10000000000000000000000000000000#32 = .command .flush ∧
  decode 0b10010000000000000000000000000000#32 = .command .rdst ∧
  decode 0b00000000000000000000000000000000#32 = .illegal .unassignedOpcode ∧
  decode 0b00110000000000000000010000000000#32 = .illegal .reservedBit ∧
  decode 0b01000001000000000000000000000000#32 = .illegal .squareSelector ∧
  decode 0b01010001000000000000000000000001#32 = .illegal .styleWithCurrent

/-- Every well-formed command comes back from its word, with every operand at every value its field
admits. -/
def Obligations.EncodedCommandDecodesBack : Prop :=
  ∀ i : Instr, i.WellFormed → decode (encode i) = .command i

/-- Every word that decodes to a command is that command's word, and the command is well-formed: no bit of
a word is ignored. -/
def Obligations.DecodedWordEncodesBack : Prop :=
  ∀ (w : Word) (i : Instr), decode w = .command i → i.WellFormed ∧ encode i = w

/-- 30_encoding R78: a word selects a command exactly when its masked bits are the match of that
command's row, the rows are disjoint, and the operands are the fields the row's pattern letters mark. -/
def Obligations.WordSelectsExactlyItsTableRow : Prop :=
  (∀ (w : Word), ∀ r ∈ opcodeTable,
    (w &&& r.mask = r.pattern ↔ ∃ i, decode w = .command i ∧ i.mnemonic = r.mnemonic)) ∧
  (∀ w : Word, ∀ r ∈ opcodeTable, ∀ r' ∈ opcodeTable,
    w &&& r.mask = r.pattern → w &&& r'.mask = r'.pattern → r = r') ∧
  (∀ (w : Word) (i : Instr), decode w = .command i →
    match i with
    | .pclr x y | .pset x y | .dsq x y =>
      x = (w.extractLsb' 0 12).toInt ∧ y = (w.extractLsb' 12 12).toInt
    | .rdb idx => idx = w.extractLsb' 0 10
    | .dbrd sty => sty = w.extractLsb' 0 2
    | .clear | .dbrdr | .stnext | .init | .flush | .rdst => True)

/-- 30_encoding R79, 60_exceptions R182: the illegal words are those that match no row, that is the listed
classes, the all-zero and the all-ones word among them; in every state such a word changes nothing, issues no
transaction and is answered `ERR_ILLEGAL`. -/
def Obligations.IllegalWordsChangeNothing : Prop :=
  (∀ w : Word, IllegalClass w ↔ ∀ r ∈ opcodeTable, w &&& r.mask ≠ r.pattern) ∧
  (∀ w : Word, IllegalClass w ↔ ∃ why, decode w = .illegal why) ∧
  IllegalClass 0x00000000#32 ∧ IllegalClass 0xFFFFFFFF#32 ∧
  (∀ (s : State) (w : Word) (rest : List HostInput), s.inputs = .word w :: rest → IllegalClass w →
    step s = .next (answeredWith 0x1000 { s with inputs := rest }))

/-- 30_encoding R75: a decoded coordinate is its 12-bit field read as two's complement: a field value `f`
in 0..2047 is `f`, in 2048..4095 it is `f - 4096`. -/
def Obligations.CoordinatesAreSignExtendedFields : Prop :=
  ∀ (w : Word) (x y : Int),
    decode w = .command (.pset x y) ∨ decode w = .command (.pclr x y) ∨ decode w = .command (.dsq x y) →
    x = (if bitsNat w 11 0 < 2048 then (bitsNat w 11 0 : Int) else (bitsNat w 11 0 : Int) - 4096) ∧
    y = (if bitsNat w 23 12 < 2048 then (bitsNat w 23 12 : Int) else (bitsNat w 23 12 : Int) - 4096)

/-- 30_encoding R86: the word of each command as the assembler table gives it, and the rejection of a
coordinate no field carries. -/
def Obligations.AssembledWordsFollowTheTable : Prop :=
  (∀ i : Instr, assemble i = none ↔ ¬ i.WellFormed) ∧
  (∀ x y : Int, coordOk x = true → coordOk y = true →
    ∃ p q r : Word,
      assemble (.pclr x y) = some p ∧ (p.toNat : Int) = 0x20000000 + y % 4096 * 4096 + x % 4096 ∧
      assemble (.pset x y) = some q ∧ (q.toNat : Int) = 0x21000000 + y % 4096 * 4096 + x % 4096 ∧
      assemble (.dsq x y) = some r ∧ (r.toNat : Int) = 0x40000000 + y % 4096 * 4096 + x % 4096) ∧
  (∀ idx : FbIndex, assemble (.rdb idx) = some (BitVec.ofNat 32 (0x30000000 + idx.toNat))) ∧
  (∀ sty : Style, assemble (.dbrd sty) = some (BitVec.ofNat 32 (0x50000000 + sty.toNat))) ∧
  assemble .clear = some 0x10000000#32 ∧ assemble .dbrdr = some 0x51000000#32 ∧
  assemble .stnext = some 0x60000000#32 ∧ assemble .init = some 0x70000000#32 ∧
  assemble .flush = some 0x80000000#32 ∧ assemble .rdst = some 0x90000000#32

/-- 30_encoding R89: saturating a wider integer leaves every outcome as it is for that integer; truncating
would not. -/
def Obligations.SaturationPreservesEveryOutcome : Prop :=
  (∀ v : Int, saturate v = if 2047 < v then 2047 else if v < -2048 then -2048 else v) ∧
  (∀ (x y : Int) (s : State),
    exec (.pset (saturate x) (saturate y)) s = exec (.pset x y) s ∧
    exec (.pclr (saturate x) (saturate y)) s = exec (.pclr x y) s ∧
    exec (.dsq (saturate x) (saturate y)) s = exec (.dsq x y) s) ∧
  (∀ x y : Int,
    decode (pixelWord x y true) = .command (.pset (saturate x) (saturate y)) ∧
    decode (pixelWord x y false) = .command (.pclr (saturate x) (saturate y)) ∧
    decode (squareWord x y) = .command (.dsq (saturate x) (saturate y))) ∧
  coordOfField (fieldOfCoord 4096) = 0

/-! ## The step, reset and the common stages -/

/-- When the host's next input is a word that decodes to a well-formed command, the step is the execution
of that command with the word taken from the port, and nothing else around it.  That the host's words stand
in a field of the state is the model's choice (log 1). -/
def Obligations.StepRunsTheDecodedCommand : Prop :=
  ∀ (s : State) (w : Word) (i : Instr) (rest : List HostInput),
    s.inputs = .word w :: rest → decode w = .command i → i.WellFormed →
    step s = exec i { s with inputs := rest }

/-- The model's choice (log 1): with no input from the host a step leaves the machine idle as it is. -/
def Obligations.NoInputLeavesTheMachineIdle : Prop :=
  ∀ s : State, s.inputs = [] → step s = .next s

/-- 10_state R32: the state after reset. -/
def Obligations.ResetLeavesTheStatedValues : Prop :=
  (∀ i : FbIndex, memRead State.reset.fb i = 0x00) ∧ State.reset.style = 0 ∧
  State.reset.inited = false ∧ State.reset.fatal = false ∧ State.reset.ioErr = false ∧
  State.reset.responses = [] ∧ State.reset.trace = []

/-- 70_reset_and_hazards R210: reset puts every piece of state at its reset value, with both histories
empty and no transaction; and nothing but a reset leaves the FATAL state or returns `INITED` to 0.  That the
host's inputs to come and the bus's answers to come go on through it is the model's choice (log 7). -/
def Obligations.ResetRestoresAndIsTheOnlyExit : Prop :=
  (∀ (s : State) (rest : List HostInput), s.inputs = .reset :: rest →
    ∃ t, step s = .next t ∧ (∀ i : FbIndex, memRead t.fb i = 0x00) ∧ t.style = 0 ∧ t.inited = false ∧
      t.fatal = false ∧ t.ioErr = false ∧ t.responses = [] ∧ t.trace = [] ∧
      t.inputs = rest ∧ t.busAnswers = s.busAnswers ∧ t.draws = s.draws) ∧
  (∀ s t : State, step s = .next t →
    (s.fatal = true ∧ t.fatal = false) ∨ (s.inited = true ∧ t.inited = false) →
    ∃ rest, s.inputs = .reset :: rest ∨ ∃ w, s.inputs = .resetDuring w :: rest)

/-- 70_reset_and_hazards R211: a reset during a command abandons it: the state is the reset state and no
response was produced for it.  That it draws none of the bus's answers, and that the host's inputs go on, is
the model's choice (logs 6 and 7). -/
def Obligations.ResetDuringACommandAbandonsIt : Prop :=
  ∀ (s : State) (w : Word) (rest : List HostInput), s.inputs = .resetDuring w :: rest →
    step s = .next { State.reset with inputs := rest, busAnswers := s.busAnswers, draws := s.draws }

/-- No command and no step stops the machine: errors are responses, not traps (60_exceptions R180, R193;
log 15: there is no fault to stop on).  For `INIT` and `FLUSH` it rests on the assumption that every bus
transaction completes (41_display_driver R120, 70_reset_and_hazards R227, 93_implementation_defined U6; log 4,
unsafe), and for a step with no input on the model's choice of the idle step (log 1). -/
def Obligations.EveryStepHasANextState : Prop :=
  (∀ (i : Instr) (s : State), ∃ t, exec i s = .next t) ∧ (∀ s : State, ∃ t, step s = .next t)

/-- 30_encoding R81: every accepted word, legal or not, is answered by exactly one response word, with the
code in bits 15:12, zero in 11:8, and as data the byte of a successful `RDB`, the STATUS byte of `RDST`, and
0x00 in every other case.  That `INIT` and `FLUSH` always reach their response rests on log 4 (41_display_driver
R120, 70_reset_and_hazards R227). -/
def Obligations.EveryWordIsAnsweredOnce : Prop :=
  (∀ (i : Instr) (s : State), ∃ (t : State) (code : BitVec 4), code ≤ 6#4 ∧ exec i s = .next t ∧
    t.responses = s.responses ++ [code ++ 0#4 ++
      (if code = 0 then
        (match i with
          | .rdb idx => memRead s.fb idx
          | .rdst => statusByte s
          | _ => 0x00)
       else 0x00)]) ∧
  (∀ (s t : State) (w : Word) (rest : List HostInput), s.inputs = .word w :: rest → step s = .next t →
    t.inputs = rest ∧ ∃ r : ResponseWord, t.responses = s.responses ++ [r])

/-- 60_exceptions R188: the response code of every word, decided by the first condition that applies:
illegal, FATAL, the command's own gate, the first failed transaction. -/
def Obligations.ErrorPriorityDecidesTheCode : Prop :=
  ∀ (s : State) (w : Word) (rest : List HostInput), s.inputs = .word w :: rest →
    ∃ (t : State) (code : BitVec 4) (data : Byte), step s = .next t ∧
      t.responses = s.responses ++ [code ++ 0#4 ++ data] ∧
      (∀ why, decode w = .illegal why → code = 0x1) ∧
      (∀ i : Instr, decode w = .command i →
        (s.fatal = true → i ≠ .rdst → code = 0x2) ∧
        (s.fatal = false → i = .init → s.inited = true → code = 0x3) ∧
        (s.fatal = false → i = .flush → s.inited = false → code = 0x4) ∧
        (s.fatal = false → i = .init → s.inited = false →
          ((∃ k < Config.machine.nInit, answerAt s k = .fail) → code = 0x6) ∧
          (AnswersOk s Config.machine.nInit → code = 0x0)) ∧
        (s.fatal = false → i = .flush → s.inited = true →
          ((∃ k < 1048, answerAt s k = .fail) → code = 0x5) ∧ (AnswersOk s 1048 → code = 0x0)) ∧
        (s.fatal = false → i ≠ .init → i ≠ .flush → code = 0x0) ∧
        (i = .rdst → code = 0x0))

/-- 60_exceptions R186: the FATAL state is entered only by a failed `INIT`, which changes nothing else but
the one bit; in it every command but `RDST` is refused with `ERR_FATAL` and no effect; `RDST` works and
shows the bit; illegal words are still `ERR_ILLEGAL`; only reset leaves it. -/
def Obligations.FatalStateEntryStayAndExit : Prop :=
  (∀ (i : Instr) (s t : State), exec i s = .next t → s.fatal = false → t.fatal = true →
    i = .init ∧ s.inited = false ∧ (∃ k < Config.machine.nInit, FirstFail s k) ∧ t.inited = false ∧
    t.style = s.style ∧ t.ioErr = s.ioErr ∧ t.fb = s.fb ∧ Answered s t 0x6000) ∧
  (∀ (i : Instr) (s : State), s.fatal = true → i ≠ .rdst → exec i s = .next (answeredWith 0x2000 s)) ∧
  (∀ s : State, s.fatal = true → ∃ r : ResponseWord,
    exec .rdst s = .next (answeredWith r s) ∧ r.getLsbD 3 = true ∧ r.extractLsb' 12 4 = 0#4) ∧
  (∀ (s : State) (w : Word) (rest : List HostInput), s.fatal = true → s.inputs = .word w :: rest →
    IllegalClass w → step s = .next (answeredWith 0x1000 { s with inputs := rest })) ∧
  (∀ s t : State, step s = .next t → s.fatal = true → t.fatal = false →
    ∃ rest, s.inputs = .reset :: rest ∨ ∃ w, s.inputs = .resetDuring w :: rest)

/-- 60_exceptions R191, R192: an error response leaves nothing but itself when it is a refusal, and else
the bus transactions and the one status bit; `FB` never changes under an error. -/
def Obligations.ErrorsArePrecise : Prop :=
  ∀ (i : Instr) (s t : State) (c : ResponseCode) (d : Byte), exec i s = .next t →
    t.responses = s.responses ++ [responseWord c d] → c ≠ .ok →
    d = 0x00 ∧ t.fb = s.fb ∧ t.style = s.style ∧ t.inited = s.inited ∧ t.inputs = s.inputs ∧
    (c = .errFatal ∨ c = .errState ∨ c = .errNoInit → t = answeredWith (responseWord c d) s) ∧
    (c = .errIo → i = .flush ∧ t.ioErr = true ∧ t.fatal = s.fatal) ∧
    (c = .errInitFail → i = .init ∧ t.fatal = true ∧ t.ioErr = s.ioErr) ∧
    c ≠ .errIllegal

/-! ## Invariants -/

/-- Every step keeps the invariant, from every state that has it. -/
def Obligations.StepKeepsTheInvariant : Prop :=
  ∀ s t : State, StateInv s → step s = .next t → StateInv t

/-- The reset state has the invariant. -/
def Obligations.ResetMeetsTheInvariant : Prop := StateInv State.reset

/-- 10_state R21, R24 to R28, 41_display_driver R133: who writes what.  `FB` only the drawing commands,
`STYLE` only `STNEXT`, `INITED` and `FATAL` only `INIT`, `IOERR` only `FLUSH`; only `INIT` and `FLUSH` use the
bus; no command touches the host's inputs. -/
def Obligations.EachFieldHasItsWriters : Prop :=
  ∀ (i : Instr) (s t : State), exec i s = .next t →
    (i.mnemonic ∉ [Mnemonic.CLEAR, .PSET, .PCLR, .DSQ, .DBRD, .DBRDR] → t.fb = s.fb) ∧
    (i ≠ .stnext → t.style = s.style) ∧
    (i ≠ .init → t.inited = s.inited ∧ t.fatal = s.fatal) ∧
    (i ≠ .flush → t.ioErr = s.ioErr) ∧
    (i ≠ .init → i ≠ .flush → SameBus s t) ∧
    SameInputs s t

/-- 10_state R31: the response stream and the bus trace are histories nothing reads: with other histories a
command does the same and appends the same. -/
def Obligations.HistoriesAreNeverRead : Prop :=
  ∀ (i : Instr) (s t : State) (rs : List ResponseWord) (ts : List Transaction), exec i s = .next t →
    ∃ (dr : List ResponseWord) (dt : List Transaction),
      t.responses = s.responses ++ dr ∧ t.trace = s.trace ++ dt ∧
      exec i { s with responses := rs, trace := ts } =
        .next { t with responses := rs ++ dr, trace := ts ++ dt }

/-! ## Framebuffer commands -/

/-- 20_memory R42: the formula, its bit-field form, and that it is a bijection between the in-range pixels
and the (byte index, bit position) pairs. -/
def Obligations.PixelAddressingIsABijection : Prop :=
  (∀ x y : Int, 0 ≤ x → x < 128 → 0 ≤ y → y < 64 →
    ((pixelIndex x y).toNat : Int) = y / 8 * 128 + x ∧ (pixelBit y : Int) = y % 8 ∧
    pixelIndex x y = (BitVec.ofInt 6 y).extractLsb' 3 3 ++ BitVec.ofInt 7 x ∧
    pixelBit y = ((BitVec.ofInt 6 y).extractLsb' 0 3).toNat) ∧
  (∀ (i : FbIndex) (b : Nat), b < 8 → ∃! p : Int × Int,
    (0 ≤ p.1 ∧ p.1 < 128 ∧ 0 ≤ p.2 ∧ p.2 < 64) ∧ pixelIndex p.1 p.2 = i ∧ pixelBit p.2 = b)

/-- 20_memory R44: an out-of-range pixel access does nothing: the store is the same, a list of pixels goes on
with its next one, and the commands answer `OK` with nothing else changed. -/
def Obligations.OutOfRangePixelsAreDropped : Prop :=
  ∀ x y : Int, (x < 0 ∨ 128 ≤ x ∨ y < 0 ∨ 64 ≤ y) →
    (∀ (m : Memory) (on : Bool), setPixel m x y on = m) ∧
    (∀ (m : Memory) (ps : List (Int × Int)), drawPixels m ((x, y) :: ps) = drawPixels m ps) ∧
    (∀ s : State, s.fatal = false →
      exec (.pset x y) s = .next (answeredWith 0x0000 s) ∧ exec (.pclr x y) s = .next (answeredWith 0x0000 s))

/-- 40_framebuffer R101: `CLEAR`. -/
def Obligations.ClearTurnsEveryPixelOff : Prop :=
  decode 0x10000000#32 = .command .clear ∧
  (∀ s : State, s.fatal = false → ∃ t, exec .clear s = .next t ∧
    (∀ i : FbIndex, memRead t.fb i = 0x00) ∧ (∀ x y : Int, InRange x y → getPixel t.fb x y = false) ∧
    SameStatus s t ∧ SameBus s t ∧ SameInputs s t ∧ Answered s t 0x0000) ∧
  (∀ s : State, s.fatal = true → exec .clear s = .next (answeredWith 0x2000 s))

/-- 40_framebuffer R102: `PSET x, y`. -/
def Obligations.PsetTurnsOnePixelOn : Prop :=
  (∀ xf yf : CoordField, decode (0x21#8 ++ yf ++ xf) = .command (.pset xf.toInt yf.toInt)) ∧
  (∀ (x y : Int) (s : State), s.fatal = false → ∃ t, exec (.pset x y) s = .next t ∧
    (InRange x y → ∀ j : FbIndex, memRead t.fb j =
      if j = pixelIndex x y then memRead s.fb j ||| (1#8 <<< pixelBit y) else memRead s.fb j) ∧
    (¬ InRange x y → t.fb = s.fb) ∧
    SameStatus s t ∧ SameBus s t ∧ SameInputs s t ∧ Answered s t 0x0000) ∧
  (∀ (x y : Int) (s : State), s.fatal = true → exec (.pset x y) s = .next (answeredWith 0x2000 s))

/-- 40_framebuffer R103: `PCLR x, y`; and its property of a set followed by a clear, which reads on, then
off, leaves every other pixel alone, and restores every byte if the pixel was off before. -/
def Obligations.PclrTurnsOnePixelOff : Prop :=
  (∀ xf yf : CoordField, decode (0x20#8 ++ yf ++ xf) = .command (.pclr xf.toInt yf.toInt)) ∧
  (∀ (x y : Int) (s : State), s.fatal = false → ∃ t, exec (.pclr x y) s = .next t ∧
    (InRange x y → ∀ j : FbIndex, memRead t.fb j =
      if j = pixelIndex x y then memRead s.fb j &&& ~~~(1#8 <<< pixelBit y) else memRead s.fb j) ∧
    (¬ InRange x y → t.fb = s.fb) ∧
    SameStatus s t ∧ SameBus s t ∧ SameInputs s t ∧ Answered s t 0x0000) ∧
  (∀ (x y : Int) (s : State), s.fatal = true → exec (.pclr x y) s = .next (answeredWith 0x2000 s)) ∧
  (∀ (x y : Int) (s : State), InRange x y → s.fatal = false →
    ∃ t u, exec (.pset x y) s = .next t ∧ exec (.pclr x y) t = .next u ∧
      getPixel t.fb x y = true ∧ getPixel u.fb x y = false ∧
      (∀ x' y' : Int, InRange x' y' → (x', y') ≠ (x, y) →
        getPixel t.fb x' y' = getPixel s.fb x' y' ∧ getPixel u.fb x' y' = getPixel s.fb x' y') ∧
      (getPixel s.fb x y = false → SameFb s u))

/-- 40_framebuffer R104: `RDB idx`. -/
def Obligations.RdbReturnsTheByte : Prop :=
  (∀ idx : FbIndex, decode (0x30000#20 ++ (0#2 ++ idx) : BitVec 32) = .command (.rdb idx)) ∧
  (∀ (idx : FbIndex) (s : State), s.fatal = false →
    exec (.rdb idx) s = .next (answeredWith (0x00#8 ++ memRead s.fb idx) s)) ∧
  (∀ (m : Memory) (idx : FbIndex) (b : Nat), b < 8 → (memRead m idx).getLsbD b =
    getPixel m ((idx.toNat % 128 : Nat) : Int) ((8 * (idx.toNat / 128) + b : Nat) : Int)) ∧
  (∀ (idx : FbIndex) (s : State), s.fatal = true → exec (.rdb idx) s = .next (answeredWith 0x2000 s))

/-! ## Renderer commands -/

/-- 42_shape_renderer R150, R151: `DSQ x, y` turns on exactly the 64 pixels of the clamped square, turns none
off, and answers `OK`. -/
def Obligations.DsqFillsTheClampedSquare : Prop :=
  (∀ xf yf : CoordField, decode (0x40#8 ++ yf ++ xf) = .command (.dsq xf.toInt yf.toInt)) ∧
  (∀ (x y : Int) (s : State), s.fatal = false → ∃ t, exec (.dsq x y) s = .next t ∧
    (∀ px py : Int, InRange px py →
      (getPixel t.fb px py = true ↔
        getPixel s.fb px py = true ∨ InSquare (clamp x 0 120) (clamp y 0 56) px py)) ∧
    (∀ px py : Int, InSquare (clamp x 0 120) (clamp y 0 56) px py → InRange px py) ∧
    SameStatus s t ∧ SameBus s t ∧ SameInputs s t ∧ Answered s t 0x0000) ∧
  (∀ (x y : Int) (s : State), s.fatal = true → exec (.dsq x y) s = .next (answeredWith 0x2000 s))

/-- 42_shape_renderer R152: the square in bytes: every byte is ORed with the mask of the rows and columns it
covers. -/
def Obligations.DsqBytesFollowTheMasks : Prop :=
  ∀ (x y : Int) (s : State), s.fatal = false → ∃ t, exec (.dsq x y) s = .next t ∧
    ∀ i : FbIndex, memRead t.fb i =
      memRead s.fb i ||| squareByte (clamp x 0 120).toNat (clamp y 0 56).toNat i

/-- 42_shape_renderer R150: the clamp is always applied, so clamping the operands first changes nothing. -/
def Obligations.DsqClampsItsOperands : Prop :=
  ∀ (x y : Int) (s : State), exec (.dsq (clamp x 0 120) (clamp y 0 56)) s = exec (.dsq x y) s

/-- 42_shape_renderer R159, R156: `DBRD sty` turns on exactly the pixels of the style's set, all in range,
turns none off, and answers `OK`. -/
def Obligations.DbrdDrawsTheStylesPixels : Prop :=
  (∀ sty : Style, decode (0x5000000#28 ++ (0#2 ++ sty) : BitVec 32) = .command (.dbrd sty)) ∧
  (∀ (sty : Style) (s : State), s.fatal = false → ∃ t, exec (.dbrd sty) s = .next t ∧
    (∀ px py : Int, InRange px py →
      (getPixel t.fb px py = true ↔ getPixel s.fb px py = true ∨ OnBorder sty px py)) ∧
    (∀ px py : Int, OnBorder sty px py → InRange px py) ∧
    SameStatus s t ∧ SameBus s t ∧ SameInputs s t ∧ Answered s t 0x0000) ∧
  (∀ (sty : Style) (s : State), s.fatal = true → exec (.dbrd sty) s = .next (answeredWith 0x2000 s))

/-- 42_shape_renderer R157: `DBRDR` with `STYLE = s` has exactly the effect of `DBRD s`, and it draws that
style's pixels. -/
def Obligations.DbrdrDrawsTheCurrentStyle : Prop :=
  decode 0x51000000#32 = .command .dbrdr ∧
  (∀ s : State, exec .dbrdr s = exec (.dbrd s.style) s) ∧
  (∀ s : State, s.fatal = false → ∃ t, exec .dbrdr s = .next t ∧
    (∀ px py : Int, InRange px py →
      (getPixel t.fb px py = true ↔ getPixel s.fb px py = true ∨ OnBorder s.style px py)) ∧
    SameStatus s t ∧ SameBus s t ∧ SameInputs s t ∧ Answered s t 0x0000) ∧
  (∀ s : State, s.fatal = true → exec .dbrdr s = .next (answeredWith 0x2000 s))

/-- 42_shape_renderer R158: `STNEXT` advances the style modulo 4 and touches nothing else; four of them give
the starting value back. -/
def Obligations.StnextCyclesTheStyle : Prop :=
  decode 0x60000000#32 = .command .stnext ∧
  (∀ s : State, s.fatal = false → ∃ t, exec .stnext s = .next t ∧
    t.style.toNat = (s.style.toNat + 1) % 4 ∧ t.fb = s.fb ∧ t.inited = s.inited ∧ t.fatal = s.fatal ∧
    t.ioErr = s.ioErr ∧ SameBus s t ∧ SameInputs s t ∧ Answered s t 0x0000) ∧
  (∀ s : State, s.fatal = false → ∃ a b c d, exec .stnext s = .next a ∧ exec .stnext a = .next b ∧
    exec .stnext b = .next c ∧ exec .stnext c = .next d ∧ d.style = s.style) ∧
  (∀ s : State, s.fatal = true → exec .stnext s = .next (answeredWith 0x2000 s))

/-- 42_shape_renderer R160, 95_test_vectors section 5 item 8: the renderer's commands never turn a pixel
off. -/
def Obligations.RendererNeverErases : Prop :=
  ∀ (i : Instr) (s t : State), exec i s = .next t → i.mnemonic ∈ [Mnemonic.DSQ, .DBRD, .DBRDR] →
    ∀ j : FbIndex, memRead t.fb j &&& memRead s.fb j = memRead s.fb j

/-- 42_shape_renderer R160, 30_encoding R87, 70_reset_and_hazards R221: the four words of `FRAME style, x, y`,
presented one after another, are answered `OK` four times, leave exactly the union of the border and the
square, and send that picture to the display. -/
def Obligations.FrameLeavesBorderAndSquare : Prop :=
  ∀ (sty : Style) (x y : Int) (s : State) (rest : List HostInput),
    coordOk x = true → coordOk y = true → s.fatal = false → s.inited = true → AnswersOk s 1048 →
    s.inputs = presented (expand (.frame sty x y)) ++ rest →
    ∃ t, Host.Core.run Sys2Proof.core 4 s = .next t ∧
      (∀ px py : Int, InRange px py → (getPixel t.fb px py = true ↔
        OnBorder sty px py ∨ InSquare (clamp x 0 120) (clamp y 0 56) px py)) ∧
      t.responses = s.responses ++ [0x0000, 0x0000, 0x0000, 0x0000] ∧
      t.trace = s.trace ++ (List.range 1048).map (fun n => flushTransaction Config.machine t.fb n .ok) ∧
      t.style = s.style ∧ t.inited = true ∧ t.fatal = false ∧ t.ioErr = false ∧ t.inputs = rest

/-! ## Driver commands -/

/-- 41_display_driver R123, R124: `INIT` when every transaction is acknowledged sends `INIT_SEQ` byte by byte
as commands, exactly `N_INIT` transactions, sets `INITED` and answers `OK`. -/
def Obligations.InitSendsTheSequence : Prop :=
  decode 0x70000000#32 = .command .init ∧
  (∀ s : State, s.fatal = false → s.inited = false → AnswersOk s Config.machine.nInit →
    ∃ t, exec .init s = .next t ∧
      t.trace = s.trace ++
        (List.range Config.machine.nInit).map (fun n => initTransaction Config.machine n .ok) ∧
      t.inited = true ∧ t.fatal = false ∧ t.style = s.style ∧ t.ioErr = s.ioErr ∧ t.fb = s.fb ∧
      SameInputs s t ∧ Answered s t 0x0000)

/-- 41_display_driver R124, R130: `INIT` whose first failed transaction is number `k` issues exactly `k + 1`
transactions, the last one `fail`, sets `FATAL` and answers `ERR_INITFAIL`. -/
def Obligations.InitStopsAtTheFirstFailure : Prop :=
  ∀ (s : State) (k : Nat), s.fatal = false → s.inited = false → k < Config.machine.nInit → FirstFail s k →
    ∃ t, exec .init s = .next t ∧
      t.trace = s.trace ++ (List.range k).map (fun n => initTransaction Config.machine n .ok) ++
        [initTransaction Config.machine k .fail] ∧
      t.fatal = true ∧ t.inited = false ∧ t.style = s.style ∧ t.ioErr = s.ioErr ∧ t.fb = s.fb ∧
      SameInputs s t ∧ Answered s t 0x6000

/-- 41_display_driver R125: a second `INIT` is refused with `ERR_STATE` and no effect. -/
def Obligations.SecondInitIsRefused : Prop :=
  ∀ s : State, s.fatal = false → s.inited = true → exec .init s = .next (answeredWith 0x3000 s)

/-- 41_display_driver R127, R128: `FLUSH` when every transaction is acknowledged issues exactly the 1048
transactions of the four-way position rule, clears `IOERR` and answers `OK`; `FB` is not written. -/
def Obligations.FlushSendsTheWholeFramebuffer : Prop :=
  decode 0x80000000#32 = .command .flush ∧
  (∀ s : State, s.fatal = false → s.inited = true → AnswersOk s 1048 →
    ∃ t, exec .flush s = .next t ∧
      t.trace = s.trace ++ (List.range 1048).map (fun n => flushTransaction Config.machine s.fb n .ok) ∧
      t.ioErr = false ∧ t.inited = true ∧ t.fatal = false ∧ t.style = s.style ∧ t.fb = s.fb ∧
      SameInputs s t ∧ Answered s t 0x0000)

/-- 41_display_driver R127, R130: `FLUSH` whose first failed transaction is number `k` issues exactly `k + 1`
transactions, the last one `fail`, sets `IOERR`, keeps `INITED` and `FATAL`, and answers `ERR_IO`. -/
def Obligations.FlushStopsAtTheFirstFailure : Prop :=
  ∀ (s : State) (k : Nat), s.fatal = false → s.inited = true → k < 1048 → FirstFail s k →
    ∃ t, exec .flush s = .next t ∧
      t.trace = s.trace ++ (List.range k).map (fun n => flushTransaction Config.machine s.fb n .ok) ++
        [flushTransaction Config.machine s.fb k .fail] ∧
      t.ioErr = true ∧ t.inited = true ∧ t.fatal = false ∧ t.style = s.style ∧ t.fb = s.fb ∧
      SameInputs s t ∧ Answered s t 0x5000

/-- 41_display_driver R126: `FLUSH` before `INIT` is refused with `ERR_NOINIT` and no effect, `IOERR`
included. -/
def Obligations.FlushBeforeInitIsRefused : Prop :=
  ∀ s : State, s.fatal = false → s.inited = false → exec .flush s = .next (answeredWith 0x4000 s)

/-- 41_display_driver R131: `RDST` answers the STATUS byte in every state, the FATAL state included, and
changes nothing; in a state with the invariant `INITED` and `FATAL` are not both 1 and `IOERR` implies
`INITED`. -/
def Obligations.RdstReturnsStatus : Prop :=
  decode 0x90000000#32 = .command .rdst ∧
  (∀ s : State, ∃ d : Byte, exec .rdst s = .next (answeredWith (0x00#8 ++ d) s) ∧
    d.extractLsb' 0 2 = s.style ∧ d.getLsbD 2 = s.inited ∧ d.getLsbD 3 = s.fatal ∧ d.getLsbD 4 = s.ioErr ∧
    d.extractLsb' 5 3 = 0#3 ∧
    (StateInv s → ¬ (d.getLsbD 2 = true ∧ d.getLsbD 3 = true) ∧ (d.getLsbD 4 = true → d.getLsbD 2 = true)))

/-- 41_display_driver R133: the counts.  A complete `FLUSH` issues 1048 transactions, 24 with control byte
0x00 and 1024 with 0x40; one that fails at transaction `k` issues `k + 1`; a complete `INIT` issues
`N_INIT`; no other command issues any. -/
def Obligations.TransactionCountsAreExact : Prop :=
  (∀ s t : State, exec .flush s = .next t → s.fatal = false → s.inited = true → AnswersOk s 1048 →
    ∃ new, t.trace = s.trace ++ new ∧ new.length = 1048 ∧
      (new.filter (fun x => x.ctl = 0x00)).length = 24 ∧
      (new.filter (fun x => x.ctl = 0x40)).length = 1024) ∧
  (∀ (s t : State) (k : Nat), exec .flush s = .next t → s.fatal = false → s.inited = true → k < 1048 →
    FirstFail s k → t.trace.length = s.trace.length + (k + 1)) ∧
  (∀ s t : State, exec .init s = .next t → s.fatal = false → s.inited = false →
    AnswersOk s Config.machine.nInit → t.trace.length = s.trace.length + Config.machine.nInit) ∧
  (∀ (i : Instr) (s t : State), exec i s = .next t → i ≠ .init → i ≠ .flush → t.trace = s.trace)

/-- 30_encoding R83, R84, 41_display_driver R130, 95_test_vectors section 5 items 6 and 7: what a command
adds to the bus trace goes to `BUS_ADDR` with control byte 0x00 or 0x40, 0x40 only from `FLUSH`, and a `fail`
is always its last element. -/
def Obligations.TraceElementsAreFramed : Prop :=
  ∀ (i : Instr) (s t : State), exec i s = .next t → ∃ new, t.trace = s.trace ++ new ∧
    (∀ x ∈ new, x.addr = Config.machine.busAddr ∧ (x.ctl = 0x00 ∨ x.ctl = 0x40) ∧
      (x.ctl = 0x40 → i = .flush)) ∧
    (∀ (n : Nat) (x : Transaction), new[n]? = some x → x.answer = .fail → n + 1 = new.length)

/-- 41_display_driver R129, 95_test_vectors section 5 item 11: the data payloads of a flush that answered
`OK` are `FB[0], FB[1], ..., FB[1023]`, `FB` still holds them at the response, and any later flush that finds
the same bytes in `FB` sends the same transactions. -/
def Obligations.FlushPayloadsAreTheFramebuffer : Prop :=
  ∀ s t : State, s.inited = true → exec .flush s = .next t → Answered s t 0x0000 →
    t.fb = s.fb ∧ ∃ new, t.trace = s.trace ++ new ∧
      (new.filter (fun x => x.ctl = 0x40)).map Transaction.payload =
        (List.range 1024).map (fun n => memRead s.fb (BitVec.ofNat 10 n)) ∧
      (∀ t' u : State, SameFb t t' → t'.inited = true → exec .flush t' = .next u → Answered t' u 0x0000 →
        u.trace = t'.trace ++ new)

/-- 41_display_driver R132: for every controller that addresses as 20_memory R59 assumes, with whatever
parameters `C`, the traffic of a flush that met no failure leaves the controller's display RAM equal to the
framebuffer; and a `FLUSH` that answers `OK` adds exactly that traffic, of this instance's parameters, to the
bus trace.  What is assumed of the controller is log 14: R59's two assumptions, and, from 20_memory R53 and not
from the words of R59, that its display RAM changes only by data transactions, so that the addressing commands
touch none of it. -/
def Obligations.DisplayMirrorsTheFramebuffer : Prop :=
  (∀ (σ : Type) (D : DisplayController σ) (C : Config), D.Addresses C →
    ∀ (d : σ) (s : State), AnswersOk s 1048 →
      ∃ new, (flushBody C s).trace = s.trace ++ new ∧
        ∀ p c : Nat, p < 8 → c < 128 →
          D.ram (new.foldl D.receive d) p c = memRead s.fb (BitVec.ofNat 10 (128 * p + c))) ∧
  (∀ s t : State, exec .flush s = .next t → s.inited = true → Answered s t 0x0000 →
    AnswersOk s 1048 ∧ t.fb = s.fb ∧ t.trace = (flushBody Config.machine s).trace)
end

