-- ==== Sys2Proof/Laws/Config.lean ====
section
/-! SUPPORT. The values of the fixed parameters, and what is known of the OPEN ones. -/

namespace Sys2Proof

@[simp] theorem Config.width_eq : Config.width = 128 := rfl
@[simp] theorem Config.height_eq : Config.height = 64 := rfl
@[simp] theorem Config.pageRows_eq : Config.pageRows = 8 := rfl
@[simp] theorem Config.fbBytes_eq : Config.fbBytes = 1024 := rfl
@[simp] theorem Config.squareSide_eq : Config.squareSide = 8 := rfl
@[simp] theorem Config.inset_eq : Config.inset = 2 := rfl
@[simp] theorem Config.dashPeriod_eq : Config.dashPeriod = 4 := rfl
@[simp] theorem Config.dashOn_eq : Config.dashOn = 2 := rfl
@[simp] theorem Config.squareAnchor_eq : Config.squareAnchor = 0 := rfl
@[simp] theorem Config.initClearsFb_eq : Config.initClearsFb = false := rfl
@[simp] theorem Config.insetFullLines_eq : Config.insetFullLines = false := rfl
@[simp] theorem Config.abortOnFail_eq : Config.abortOnFail = true := rfl

/-- The page count follows from the geometry, `ceil(H / 8)` (00_scope R4). -/
theorem Config.numPages_eq : Config.numPages = (Config.height + 7) / 8 := rfl

/-- The framebuffer size follows from the geometry, `NPAGES * W` (00_scope R4). -/
theorem Config.fbBytes_eq_pages : Config.fbBytes = Config.numPages * Config.width := rfl

/-- `N_INIT >= 1` (41_display_driver R122). -/
theorem Config.nInit_pos (C : Config) : 0 < C.nInit := by
  simp [Config.nInit, Config.initSeq]

end Sys2Proof
end

