-- ==== Sys2Proof/Laws/State.lean ====
section
/-! SUPPORT. What each state update leaves in each field, one lemma per field per update, all by rfl. -/

namespace Sys2Proof.Machine

/-! ### writeFb -/

@[simp] theorem writeFb_fb (m : Memory) (s : State) :
    (writeFb m s).fb = m := rfl
@[simp] theorem writeFb_style (m : Memory) (s : State) :
    (writeFb m s).style = s.style := rfl
@[simp] theorem writeFb_inited (m : Memory) (s : State) :
    (writeFb m s).inited = s.inited := rfl
@[simp] theorem writeFb_fatal (m : Memory) (s : State) :
    (writeFb m s).fatal = s.fatal := rfl
@[simp] theorem writeFb_ioErr (m : Memory) (s : State) :
    (writeFb m s).ioErr = s.ioErr := rfl
@[simp] theorem writeFb_responses (m : Memory) (s : State) :
    (writeFb m s).responses = s.responses := rfl
@[simp] theorem writeFb_trace (m : Memory) (s : State) :
    (writeFb m s).trace = s.trace := rfl
@[simp] theorem writeFb_inputs (m : Memory) (s : State) :
    (writeFb m s).inputs = s.inputs := rfl
@[simp] theorem writeFb_busAnswers (m : Memory) (s : State) :
    (writeFb m s).busAnswers = s.busAnswers := rfl
@[simp] theorem writeFb_draws (m : Memory) (s : State) :
    (writeFb m s).draws = s.draws := rfl

/-! ### writeStyle -/

@[simp] theorem writeStyle_fb (st : Style) (s : State) :
    (writeStyle st s).fb = s.fb := rfl
@[simp] theorem writeStyle_style (st : Style) (s : State) :
    (writeStyle st s).style = st := rfl
@[simp] theorem writeStyle_inited (st : Style) (s : State) :
    (writeStyle st s).inited = s.inited := rfl
@[simp] theorem writeStyle_fatal (st : Style) (s : State) :
    (writeStyle st s).fatal = s.fatal := rfl
@[simp] theorem writeStyle_ioErr (st : Style) (s : State) :
    (writeStyle st s).ioErr = s.ioErr := rfl
@[simp] theorem writeStyle_responses (st : Style) (s : State) :
    (writeStyle st s).responses = s.responses := rfl
@[simp] theorem writeStyle_trace (st : Style) (s : State) :
    (writeStyle st s).trace = s.trace := rfl
@[simp] theorem writeStyle_inputs (st : Style) (s : State) :
    (writeStyle st s).inputs = s.inputs := rfl
@[simp] theorem writeStyle_busAnswers (st : Style) (s : State) :
    (writeStyle st s).busAnswers = s.busAnswers := rfl
@[simp] theorem writeStyle_draws (st : Style) (s : State) :
    (writeStyle st s).draws = s.draws := rfl

/-! ### setInited -/

@[simp] theorem setInited_fb (s : State) :
    (setInited s).fb = s.fb := rfl
@[simp] theorem setInited_style (s : State) :
    (setInited s).style = s.style := rfl
@[simp] theorem setInited_inited (s : State) :
    (setInited s).inited = true := rfl
@[simp] theorem setInited_fatal (s : State) :
    (setInited s).fatal = s.fatal := rfl
@[simp] theorem setInited_ioErr (s : State) :
    (setInited s).ioErr = s.ioErr := rfl
@[simp] theorem setInited_responses (s : State) :
    (setInited s).responses = s.responses := rfl
@[simp] theorem setInited_trace (s : State) :
    (setInited s).trace = s.trace := rfl
@[simp] theorem setInited_inputs (s : State) :
    (setInited s).inputs = s.inputs := rfl
@[simp] theorem setInited_busAnswers (s : State) :
    (setInited s).busAnswers = s.busAnswers := rfl
@[simp] theorem setInited_draws (s : State) :
    (setInited s).draws = s.draws := rfl

/-! ### setFatal -/

@[simp] theorem setFatal_fb (s : State) :
    (setFatal s).fb = s.fb := rfl
@[simp] theorem setFatal_style (s : State) :
    (setFatal s).style = s.style := rfl
@[simp] theorem setFatal_inited (s : State) :
    (setFatal s).inited = s.inited := rfl
@[simp] theorem setFatal_fatal (s : State) :
    (setFatal s).fatal = true := rfl
@[simp] theorem setFatal_ioErr (s : State) :
    (setFatal s).ioErr = s.ioErr := rfl
@[simp] theorem setFatal_responses (s : State) :
    (setFatal s).responses = s.responses := rfl
@[simp] theorem setFatal_trace (s : State) :
    (setFatal s).trace = s.trace := rfl
@[simp] theorem setFatal_inputs (s : State) :
    (setFatal s).inputs = s.inputs := rfl
@[simp] theorem setFatal_busAnswers (s : State) :
    (setFatal s).busAnswers = s.busAnswers := rfl
@[simp] theorem setFatal_draws (s : State) :
    (setFatal s).draws = s.draws := rfl

/-! ### writeIoErr -/

@[simp] theorem writeIoErr_fb (b : Bool) (s : State) :
    (writeIoErr b s).fb = s.fb := rfl
@[simp] theorem writeIoErr_style (b : Bool) (s : State) :
    (writeIoErr b s).style = s.style := rfl
@[simp] theorem writeIoErr_inited (b : Bool) (s : State) :
    (writeIoErr b s).inited = s.inited := rfl
@[simp] theorem writeIoErr_fatal (b : Bool) (s : State) :
    (writeIoErr b s).fatal = s.fatal := rfl
@[simp] theorem writeIoErr_ioErr (b : Bool) (s : State) :
    (writeIoErr b s).ioErr = b := rfl
@[simp] theorem writeIoErr_responses (b : Bool) (s : State) :
    (writeIoErr b s).responses = s.responses := rfl
@[simp] theorem writeIoErr_trace (b : Bool) (s : State) :
    (writeIoErr b s).trace = s.trace := rfl
@[simp] theorem writeIoErr_inputs (b : Bool) (s : State) :
    (writeIoErr b s).inputs = s.inputs := rfl
@[simp] theorem writeIoErr_busAnswers (b : Bool) (s : State) :
    (writeIoErr b s).busAnswers = s.busAnswers := rfl
@[simp] theorem writeIoErr_draws (b : Bool) (s : State) :
    (writeIoErr b s).draws = s.draws := rfl

/-! ### respond -/

@[simp] theorem respond_fb (c : ResponseCode) (d : Byte) (s : State) :
    (respond c d s).fb = s.fb := rfl
@[simp] theorem respond_style (c : ResponseCode) (d : Byte) (s : State) :
    (respond c d s).style = s.style := rfl
@[simp] theorem respond_inited (c : ResponseCode) (d : Byte) (s : State) :
    (respond c d s).inited = s.inited := rfl
@[simp] theorem respond_fatal (c : ResponseCode) (d : Byte) (s : State) :
    (respond c d s).fatal = s.fatal := rfl
@[simp] theorem respond_ioErr (c : ResponseCode) (d : Byte) (s : State) :
    (respond c d s).ioErr = s.ioErr := rfl
@[simp] theorem respond_responses (c : ResponseCode) (d : Byte) (s : State) :
    (respond c d s).responses = s.responses ++ [responseWord c d] := rfl
@[simp] theorem respond_trace (c : ResponseCode) (d : Byte) (s : State) :
    (respond c d s).trace = s.trace := rfl
@[simp] theorem respond_inputs (c : ResponseCode) (d : Byte) (s : State) :
    (respond c d s).inputs = s.inputs := rfl
@[simp] theorem respond_busAnswers (c : ResponseCode) (d : Byte) (s : State) :
    (respond c d s).busAnswers = s.busAnswers := rfl
@[simp] theorem respond_draws (c : ResponseCode) (d : Byte) (s : State) :
    (respond c d s).draws = s.draws := rfl

/-! ### raiseError -/

@[simp] theorem raiseError_fb (c : ResponseCode) (s : State) :
    (raiseError c s).fb = s.fb := rfl
@[simp] theorem raiseError_style (c : ResponseCode) (s : State) :
    (raiseError c s).style = s.style := rfl
@[simp] theorem raiseError_inited (c : ResponseCode) (s : State) :
    (raiseError c s).inited = s.inited := rfl
@[simp] theorem raiseError_fatal (c : ResponseCode) (s : State) :
    (raiseError c s).fatal = s.fatal := rfl
@[simp] theorem raiseError_ioErr (c : ResponseCode) (s : State) :
    (raiseError c s).ioErr = s.ioErr := rfl
@[simp] theorem raiseError_responses (c : ResponseCode) (s : State) :
    (raiseError c s).responses = s.responses ++ [responseWord c 0x00] := rfl
@[simp] theorem raiseError_trace (c : ResponseCode) (s : State) :
    (raiseError c s).trace = s.trace := rfl
@[simp] theorem raiseError_inputs (c : ResponseCode) (s : State) :
    (raiseError c s).inputs = s.inputs := rfl
@[simp] theorem raiseError_busAnswers (c : ResponseCode) (s : State) :
    (raiseError c s).busAnswers = s.busAnswers := rfl
@[simp] theorem raiseError_draws (c : ResponseCode) (s : State) :
    (raiseError c s).draws = s.draws := rfl

/-! ### enterFatal -/

@[simp] theorem enterFatal_fb (s : State) :
    (enterFatal s).fb = s.fb := rfl
@[simp] theorem enterFatal_style (s : State) :
    (enterFatal s).style = s.style := rfl
@[simp] theorem enterFatal_inited (s : State) :
    (enterFatal s).inited = s.inited := rfl
@[simp] theorem enterFatal_fatal (s : State) :
    (enterFatal s).fatal = true := rfl
@[simp] theorem enterFatal_ioErr (s : State) :
    (enterFatal s).ioErr = s.ioErr := rfl
@[simp] theorem enterFatal_responses (s : State) :
    (enterFatal s).responses = s.responses ++ [responseWord .errInitFail 0x00] := rfl
@[simp] theorem enterFatal_trace (s : State) :
    (enterFatal s).trace = s.trace := rfl
@[simp] theorem enterFatal_inputs (s : State) :
    (enterFatal s).inputs = s.inputs := rfl
@[simp] theorem enterFatal_busAnswers (s : State) :
    (enterFatal s).busAnswers = s.busAnswers := rfl
@[simp] theorem enterFatal_draws (s : State) :
    (enterFatal s).draws = s.draws := rfl

/-! ### answerIllegal -/

@[simp] theorem answerIllegal_fb (s : State) :
    (answerIllegal s).fb = s.fb := rfl
@[simp] theorem answerIllegal_style (s : State) :
    (answerIllegal s).style = s.style := rfl
@[simp] theorem answerIllegal_inited (s : State) :
    (answerIllegal s).inited = s.inited := rfl
@[simp] theorem answerIllegal_fatal (s : State) :
    (answerIllegal s).fatal = s.fatal := rfl
@[simp] theorem answerIllegal_ioErr (s : State) :
    (answerIllegal s).ioErr = s.ioErr := rfl
@[simp] theorem answerIllegal_responses (s : State) :
    (answerIllegal s).responses = s.responses ++ [responseWord .errIllegal 0x00] := rfl
@[simp] theorem answerIllegal_trace (s : State) :
    (answerIllegal s).trace = s.trace := rfl
@[simp] theorem answerIllegal_inputs (s : State) :
    (answerIllegal s).inputs = s.inputs := rfl
@[simp] theorem answerIllegal_busAnswers (s : State) :
    (answerIllegal s).busAnswers = s.busAnswers := rfl
@[simp] theorem answerIllegal_draws (s : State) :
    (answerIllegal s).draws = s.draws := rfl

/-! ### logTransaction -/

@[simp] theorem logTransaction_fb (t : Transaction) (s : State) :
    (logTransaction t s).fb = s.fb := rfl
@[simp] theorem logTransaction_style (t : Transaction) (s : State) :
    (logTransaction t s).style = s.style := rfl
@[simp] theorem logTransaction_inited (t : Transaction) (s : State) :
    (logTransaction t s).inited = s.inited := rfl
@[simp] theorem logTransaction_fatal (t : Transaction) (s : State) :
    (logTransaction t s).fatal = s.fatal := rfl
@[simp] theorem logTransaction_ioErr (t : Transaction) (s : State) :
    (logTransaction t s).ioErr = s.ioErr := rfl
@[simp] theorem logTransaction_responses (t : Transaction) (s : State) :
    (logTransaction t s).responses = s.responses := rfl
@[simp] theorem logTransaction_trace (t : Transaction) (s : State) :
    (logTransaction t s).trace = s.trace ++ [t] := rfl
@[simp] theorem logTransaction_inputs (t : Transaction) (s : State) :
    (logTransaction t s).inputs = s.inputs := rfl
@[simp] theorem logTransaction_busAnswers (t : Transaction) (s : State) :
    (logTransaction t s).busAnswers = s.busAnswers.drop 1 := rfl
@[simp] theorem logTransaction_draws (t : Transaction) (s : State) :
    (logTransaction t s).draws = s.draws + 1 := rfl

/-! ### applyReset -/

@[simp] theorem applyReset_fb (s : State) :
    (applyReset s).fb = [] := rfl
@[simp] theorem applyReset_style (s : State) :
    (applyReset s).style = 0 := rfl
@[simp] theorem applyReset_inited (s : State) :
    (applyReset s).inited = false := rfl
@[simp] theorem applyReset_fatal (s : State) :
    (applyReset s).fatal = false := rfl
@[simp] theorem applyReset_ioErr (s : State) :
    (applyReset s).ioErr = false := rfl
@[simp] theorem applyReset_responses (s : State) :
    (applyReset s).responses = [] := rfl
@[simp] theorem applyReset_trace (s : State) :
    (applyReset s).trace = [] := rfl
@[simp] theorem applyReset_inputs (s : State) :
    (applyReset s).inputs = s.inputs := rfl
@[simp] theorem applyReset_busAnswers (s : State) :
    (applyReset s).busAnswers = s.busAnswers := rfl
@[simp] theorem applyReset_draws (s : State) :
    (applyReset s).draws = s.draws := rfl

end Sys2Proof.Machine
end

