-- ==== Sys2Proof/Laws/Bus.lean ====
section
/-! SUPPORT. What a transaction and a sequence of transactions do (41_display_driver R120, R121, R130). -/

namespace Sys2Proof.Machine

theorem answerAt_logTransaction (t : Transaction) (s : State) (k : Nat) :
    answerAt (logTransaction t s) k = answerAt s (k + 1) := by
  simp only [answerAt, logTransaction_busAnswers, logTransaction_draws, List.getElem?_drop]
  rw [Nat.add_comm 1 k, Nat.add_assoc, Nat.add_comm 1 k]

/-- The state after `ts` was issued: the trace is longer by them and as many answers are used up. -/
def afterTraffic (ts : List Transaction) (s : State) : State :=
  { s with trace := s.trace ++ ts, busAnswers := s.busAnswers.drop ts.length, draws := s.draws + ts.length }

@[simp] theorem afterTraffic_fb (ts : List Transaction) (s : State) : (afterTraffic ts s).fb = s.fb := rfl
@[simp] theorem afterTraffic_style (ts : List Transaction) (s : State) : (afterTraffic ts s).style = s.style := rfl
@[simp] theorem afterTraffic_inited (ts : List Transaction) (s : State) : (afterTraffic ts s).inited = s.inited := rfl
@[simp] theorem afterTraffic_fatal (ts : List Transaction) (s : State) : (afterTraffic ts s).fatal = s.fatal := rfl
@[simp] theorem afterTraffic_ioErr (ts : List Transaction) (s : State) : (afterTraffic ts s).ioErr = s.ioErr := rfl
@[simp] theorem afterTraffic_responses (ts : List Transaction) (s : State) :
    (afterTraffic ts s).responses = s.responses := rfl
@[simp] theorem afterTraffic_trace (ts : List Transaction) (s : State) :
    (afterTraffic ts s).trace = s.trace ++ ts := rfl
@[simp] theorem afterTraffic_inputs (ts : List Transaction) (s : State) : (afterTraffic ts s).inputs = s.inputs := rfl
@[simp] theorem afterTraffic_busAnswers (ts : List Transaction) (s : State) :
    (afterTraffic ts s).busAnswers = s.busAnswers.drop ts.length := rfl
@[simp] theorem afterTraffic_draws (ts : List Transaction) (s : State) :
    (afterTraffic ts s).draws = s.draws + ts.length := rfl

theorem afterTraffic_nil (s : State) : afterTraffic [] s = s := by simp [afterTraffic]

theorem afterTraffic_cons (t : Transaction) (ts : List Transaction) (s : State) :
    afterTraffic ts (logTransaction t s) = afterTraffic (t :: ts) s := by
  simp [afterTraffic, logTransaction, Nat.add_comm, Nat.add_left_comm]

theorem sendItem_eq (C : Config) (it : BusItem) (s : State) :
    sendItem C it s = (answerAt s 0, logTransaction (transactionOf C it (answerAt s 0)) s) := rfl

theorem sendAll_cons_ok {C : Config} {it : BusItem} {rest : List BusItem} {s : State}
    (h : answerAt s 0 = .ok) :
    sendAll C (it :: rest) s = sendAll C rest (logTransaction (transactionOf C it .ok) s) := by
  simp only [sendAll, sendItem_eq, h]

theorem sendAll_cons_fail {C : Config} {it : BusItem} {rest : List BusItem} {s : State}
    (h : answerAt s 0 = .fail) :
    sendAll C (it :: rest) s = (.fail, logTransaction (transactionOf C it .fail) s) := by
  simp only [sendAll, sendItem_eq, h, Config.abortOnFail_eq, if_true]

/-- All answers ok: every item is sent, in order. -/
theorem sendAll_ok {C : Config} {its : List BusItem} {s : State} (h : AnswersOk s its.length) :
    sendAll C its s = (.ok, afterTraffic (its.map fun it => transactionOf C it .ok) s) := by
  induction its generalizing s with
  | nil => simp [sendAll, afterTraffic_nil]
  | cons it rest ih =>
    rw [sendAll_cons_ok (h 0 (by simp)), ih, afterTraffic_cons, List.map_cons]
    intro k hk
    rw [answerAt_logTransaction]
    exact h (k + 1) (by simpa using hk)

/-- The first failure at `k`: the items before it are sent and acknowledged, item `k` is sent and is not,
nothing after it is sent. -/
theorem sendAll_fail {C : Config} {its : List BusItem} {s : State} {k : Nat} (hk : k < its.length)
    (h : FirstFail s k) :
    sendAll C its s = (.fail, afterTraffic
      ((its.take k).map (fun it => transactionOf C it .ok) ++ [transactionOf C its[k] .fail]) s) := by
  induction its generalizing s k with
  | nil => simp at hk
  | cons it rest ih =>
    cases k with
    | zero =>
      rw [sendAll_cons_fail h.2]
      simp [← afterTraffic_cons, afterTraffic_nil]
    | succ k =>
      rw [sendAll_cons_ok (h.1 0 (by simp)), ih (k := k) (by simpa using hk), afterTraffic_cons]
      · simp
      · refine ⟨fun j hj => ?_, ?_⟩
        · rw [answerAt_logTransaction]; exact h.1 (j + 1) (by omega)
        · rw [answerAt_logTransaction]; exact h.2

/-- The next `n` answers are all ok, or there is a first failure among them. -/
theorem answers_cases (s : State) (n : Nat) : AnswersOk s n ∨ ∃ k < n, FirstFail s k := by
  induction n with
  | zero => exact .inl (fun k hk => by omega)
  | succ n ih =>
    rcases ih with h | ⟨k, hk, h⟩
    · cases hn : answerAt s n with
      | ok =>
        refine .inl fun k hk => ?_
        rcases Nat.lt_succ_iff_lt_or_eq.mp hk with hk | rfl
        · exact h k hk
        · exact hn
      | fail => exact .inr ⟨n, by omega, h, hn⟩
    · exact .inr ⟨k, by omega, h⟩

/-- A first failure and all answers ok exclude each other. -/
theorem FirstFail.not_ok {s : State} {k n : Nat} (h : FirstFail s k) (hk : k < n) : ¬ AnswersOk s n := by
  intro ho
  have := ho k hk
  rw [h.2] at this
  cases this

/-- Everything a sequence of transactions can do. -/
theorem sendAll_cases (C : Config) (its : List BusItem) (s : State) :
    (AnswersOk s its.length ∧
      sendAll C its s = (.ok, afterTraffic (its.map fun it => transactionOf C it .ok) s)) ∨
    (∃ k, ∃ hk : k < its.length, FirstFail s k ∧
      sendAll C its s = (.fail, afterTraffic
        ((its.take k).map (fun it => transactionOf C it .ok) ++ [transactionOf C its[k] .fail]) s)) := by
  rcases answers_cases s its.length with h | ⟨k, hk, h⟩
  · exact .inl ⟨h, sendAll_ok h⟩
  · exact .inr ⟨k, hk, h, sendAll_fail hk h⟩

/-! ### The traffic of the two long commands -/

theorem initItems_length (C : Config) : (initItems C).length = C.nInit := by simp [initItems, Config.nInit]

theorem pageItems_length (C : Config) (m : Memory) (p : Fin 8) : (pageItems C m p).length = 131 := by
  simp [pageItems]

/-- A complete flush is 1048 transactions (41_display_driver R133). -/
theorem flushItems_length (C : Config) (m : Memory) : (flushItems C m).length = 1048 := by
  simp [flushItems, List.length_flatMap, pageItems_length]

/-- The body of INIT, in its two cases (41_display_driver R124). -/
theorem initBody_ok {C : Config} {s : State} (h : AnswersOk s C.nInit) :
    initBody C s = respond .ok 0x00 (setInited
      (afterTraffic ((initItems C).map fun it => transactionOf C it .ok) s)) := by
  simp only [initBody, Config.initClearsFb_eq, Bool.false_eq_true, if_false]
  rw [sendAll_ok (by rw [initItems_length]; exact h)]

theorem initBody_fail {C : Config} {s : State} {k : Nat} (hk : k < (initItems C).length)
    (h : FirstFail s k) :
    initBody C s = enterFatal (afterTraffic (((initItems C).take k).map (fun it => transactionOf C it .ok) ++
      [transactionOf C (initItems C)[k] .fail]) s) := by
  simp only [initBody, Config.initClearsFb_eq, Bool.false_eq_true, if_false]
  rw [sendAll_fail hk h]

/-- The body of FLUSH, in its two cases (41_display_driver R127). -/
theorem flushBody_ok {C : Config} {s : State} (h : AnswersOk s 1048) :
    flushBody C s = respond .ok 0x00 (writeIoErr false
      (afterTraffic ((flushItems C s.fb).map fun it => transactionOf C it .ok) s)) := by
  simp only [flushBody]
  rw [sendAll_ok (by rw [flushItems_length]; exact h)]

theorem flushBody_fail {C : Config} {s : State} {k : Nat} (hk : k < (flushItems C s.fb).length)
    (h : FirstFail s k) :
    flushBody C s = raiseError .errIo (writeIoErr true
      (afterTraffic (((flushItems C s.fb).take k).map (fun it => transactionOf C it .ok) ++
        [transactionOf C (flushItems C s.fb)[k] .fail]) s)) := by
  simp only [flushBody]
  rw [sendAll_fail hk h]

end Sys2Proof.Machine
end

