-- ==== Sys2Proof/Laws/Memory.lean ====
section
/-! SUPPORT. The framebuffer store: read after write, the canonical form, and that equal reads mean equal
memories. -/

namespace Sys2Proof.Machine

@[simp] theorem Memory.read_nil (a : Nat) : Memory.read [] a = 0 := rfl

theorem Memory.read_cons (b : Nat) (v : Byte) (m : Memory) (a : Nat) :
    Memory.read ((b, v) :: m) a = if b = a then v else Memory.read m a := rfl

theorem Memory.read_erase (m : Memory) (a b : Nat) :
    Memory.read (Memory.erase m a) b = if b = a then 0 else Memory.read m b := by
  induction m with
  | nil => simp [Memory.erase]
  | cons c m ih =>
    obtain ⟨k, v⟩ := c
    by_cases hk : k = a
    · subst hk
      have h : Memory.erase ((k, v) :: m) k = Memory.erase m k := by simp [Memory.erase]
      rw [h, ih, Memory.read_cons]
      by_cases hb : b = k <;> simp [hb, eq_comm]
    · have h : Memory.erase ((k, v) :: m) a = (k, v) :: Memory.erase m a := by simp [Memory.erase, hk]
      rw [h, Memory.read_cons, ih, Memory.read_cons]
      by_cases hb : b = a
      · subst hb; simp [hk]
      · simp [hb]

theorem Memory.read_insert (m : Memory) (a : Nat) (v : Byte) (b : Nat) (h : ∀ c ∈ m, c.1 ≠ a) :
    Memory.read (Memory.insert m a v) b = if b = a then v else Memory.read m b := by
  induction m with
  | nil => simp [Memory.insert, Memory.read_cons, eq_comm]
  | cons c m ih =>
    obtain ⟨k, u⟩ := c
    have hk : k ≠ a := h (k, u) (by simp)
    have ih := ih (fun c hc => h c (by simp [hc]))
    unfold Memory.insert
    split
    · simp [Memory.read_cons, eq_comm]
    · rw [Memory.read_cons, ih, Memory.read_cons]
      by_cases hb : b = a
      · subst hb; simp [hk]
      · simp [hb]

theorem Memory.erase_ne (m : Memory) (a : Nat) : ∀ c ∈ Memory.erase m a, c.1 ≠ a := by
  intro c hc
  simpa [Memory.erase] using (List.mem_filter.mp hc).2

/-- Read after write, at every index and of every memory. -/
theorem Memory.read_write (m : Memory) (a : Nat) (v : Byte) (b : Nat) :
    Memory.read (Memory.write m a v) b = if b = a then v else Memory.read m b := by
  unfold Memory.write
  split
  · rename_i hv
    simp only [Memory.unlisted] at hv
    rw [Memory.read_erase, hv]
  · rw [Memory.read_insert _ _ _ _ (Memory.erase_ne m a), Memory.read_erase]
    by_cases hb : b = a <;> simp [hb]

theorem Memory.wf_nil : Memory.wf [] := by simp [Memory.wf]

theorem Memory.wf_erase {m : Memory} (h : Memory.wf m) (a : Nat) : Memory.wf (Memory.erase m a) :=
  ⟨h.1.filter _, fun c hc => h.2.1 c (List.mem_filter.mp hc).1, fun c hc => h.2.2 c (List.mem_filter.mp hc).1⟩

theorem Memory.mem_insert {m : Memory} {a : Nat} {v : Byte} {c : Host.Cell}
    (hc : c ∈ Memory.insert m a v) : c = (a, v) ∨ c ∈ m := by
  induction m with
  | nil => simpa [Memory.insert] using hc
  | cons d m ih =>
    obtain ⟨k, u⟩ := d
    unfold Memory.insert at hc
    split at hc
    · simpa using hc
    · rcases List.mem_cons.mp hc with h | h
      · simp [h]
      · rcases ih h with h | h <;> simp [h]

theorem Memory.insert_pairwise {m : Memory} {a : Nat} {v : Byte}
    (h : m.Pairwise (fun c d => c.1 < d.1)) (hne : ∀ c ∈ m, c.1 ≠ a) :
    (Memory.insert m a v).Pairwise (fun c d => c.1 < d.1) := by
  induction m with
  | nil => simp [Memory.insert]
  | cons d m ih =>
    obtain ⟨k, u⟩ := d
    rw [List.pairwise_cons] at h
    unfold Memory.insert
    split
    · rename_i hlt
      refine List.pairwise_cons.mpr ⟨?_, List.pairwise_cons.mpr h⟩
      intro c hc
      rcases List.mem_cons.mp hc with rfl | hc
      · exact hlt
      · exact Nat.lt_trans hlt (h.1 c hc)
    · rename_i hge
      have hk : k ≠ a := hne (k, u) (by simp)
      refine List.pairwise_cons.mpr ⟨?_, ih h.2 (fun c hc => hne c (by simp [hc]))⟩
      intro c hc
      rcases Memory.mem_insert hc with rfl | hc
      · simp only; omega
      · exact h.1 c hc

/-- A write below 1024 keeps the canonical form. -/
theorem Memory.wf_write {m : Memory} (h : Memory.wf m) {a : Nat} (ha : a < 1024) (v : Byte) :
    Memory.wf (Memory.write m a v) := by
  unfold Memory.write
  split
  · exact Memory.wf_erase h a
  · rename_i hv
    have he := Memory.wf_erase h a
    refine ⟨Memory.insert_pairwise he.1 (Memory.erase_ne m a), ?_, ?_⟩
    · intro c hc
      rcases Memory.mem_insert hc with rfl | hc
      · simpa using ha
      · exact he.2.1 c hc
    · intro c hc
      rcases Memory.mem_insert hc with rfl | hc
      · exact hv
      · exact he.2.2 c hc

theorem Memory.read_eq_zero_of_lt {m : Memory} {a : Nat} (h : ∀ c ∈ m, a < c.1) : Memory.read m a = 0 := by
  induction m with
  | nil => rfl
  | cons c m ih =>
    obtain ⟨k, v⟩ := c
    have hk : a < k := h (k, v) (by simp)
    rw [Memory.read_cons, if_neg (by omega), ih (fun c hc => h c (by simp [hc]))]

/-- Canonical memories that read the same everywhere are the same list. -/
theorem Memory.ext_of_read {m n : Memory} (hm : Memory.wf m) (hn : Memory.wf n)
    (h : ∀ a, Memory.read m a = Memory.read n a) : m = n := by
  have tail : ∀ {c : Host.Cell} {m : Memory}, Memory.wf (c :: m) → Memory.wf m := fun h =>
    ⟨(List.pairwise_cons.mp h.1).2, fun c hc => h.2.1 c (by simp [hc]), fun c hc => h.2.2 c (by simp [hc])⟩
  have head : ∀ {k : Nat} {v : Byte} {m : Memory}, Memory.wf ((k, v) :: m) →
      (∀ c ∈ m, k < c.1) ∧ v ≠ 0 := fun {k v m} h =>
    ⟨(List.pairwise_cons.mp h.1).1, h.2.2 (k, v) (by simp)⟩
  induction m generalizing n with
  | nil =>
    cases n with
    | nil => rfl
    | cons d n =>
      obtain ⟨k, v⟩ := d
      exact absurd (h k).symm (by simpa [Memory.read_cons] using (head hn).2)
  | cons c m ih =>
    obtain ⟨k, v⟩ := c
    obtain ⟨hlt, hv⟩ := head hm
    cases n with
    | nil => exact absurd (h k) (by simpa [Memory.read_cons] using hv)
    | cons d n =>
      obtain ⟨l, u⟩ := d
      obtain ⟨hlt', hu⟩ := head hn
      have hkl : k = l := by
        rcases Nat.lt_trichotomy k l with hc | hc | hc
        · have := h k
          rw [Memory.read_cons, if_pos rfl, Memory.read_eq_zero_of_lt] at this
          · exact absurd this hv
          · intro c hc'
            rcases List.mem_cons.mp hc' with rfl | hc'
            · exact hc
            · exact Nat.lt_trans hc (hlt' c hc')
        · exact hc
        · have := (h l).symm
          rw [Memory.read_cons, if_pos rfl, Memory.read_eq_zero_of_lt] at this
          · exact absurd this hu
          · intro c hc'
            rcases List.mem_cons.mp hc' with rfl | hc'
            · exact hc
            · exact Nat.lt_trans hc (hlt c hc')
      subst hkl
      have huv : v = u := by simpa [Memory.read_cons] using h k
      subst huv
      rw [ih (tail hm) (tail hn) ?_]
      intro a
      by_cases ha : k = a
      · subst ha
        rw [Memory.read_eq_zero_of_lt hlt, Memory.read_eq_zero_of_lt hlt']
      · simpa [Memory.read_cons, ha] using h a

/-! ### The primitives MemRead and MemWrite -/

@[simp] theorem memRead_nil (i : FbIndex) : memRead [] i = 0 := rfl

/-- Read after write through the primitives (20_memory R49). -/
theorem memRead_memWrite (m : Memory) (i j : FbIndex) (v : Byte) :
    memRead (memWrite m i v) j = if j = i then v else memRead m j := by
  simp only [memRead, memWrite, Memory.read_write, BitVec.toNat_inj]

theorem wf_memWrite {m : Memory} (h : Memory.wf m) (i : FbIndex) (v : Byte) : Memory.wf (memWrite m i v) :=
  Memory.wf_write h i.isLt v

end Sys2Proof.Machine
end

