-- ==== Sys2Proof/Laws/Pixels.lean ====
section
/-! SUPPORT. Pixel addressing (20_memory R42) and what SetPixel and the drawing of a list do (R45, R60). -/

namespace Sys2Proof.Machine

/-! ### Addressing -/

theorem pixelIndex_toNat {x y : Int} (h : InRange x y) :
    ((pixelIndex x y).toNat : Int) = y / 8 * 128 + x := by
  simp only [InRange, Config.width_eq, Config.height_eq] at h
  simp only [pixelIndex, Config.width_eq, Config.pageRows_eq, BitVec.toNat_ofInt]
  omega

theorem pixelBit_lt (y : Int) : pixelBit y < 8 := by
  simp only [pixelBit, Config.pageRows_eq]
  omega

theorem pixelBit_cast (y : Int) : (pixelBit y : Int) = y % 8 := by
  simp only [pixelBit, Config.pageRows_eq]
  omega

/-- Two in-range pixels with one byte index and one bit position are one pixel (20_memory R42). -/
theorem pixel_unique {x y x' y' : Int} (h : InRange x y) (h' : InRange x' y')
    (hi : pixelIndex x y = pixelIndex x' y') (hb : pixelBit y = pixelBit y') : x = x' ∧ y = y' := by
  have e1 := pixelIndex_toNat h
  have e2 := pixelIndex_toNat h'
  have b1 := pixelBit_cast y
  have b2 := pixelBit_cast y'
  rw [hi] at e1
  rw [hb] at b1
  simp only [InRange, Config.width_eq, Config.height_eq] at h h'
  omega

/-- The pixel that a bit of a framebuffer byte holds (20_memory R43). -/
theorem pixel_of_bit (i : FbIndex) {b : Nat} (hb : b < 8) :
    InRange ((i.toNat % 128 : Nat) : Int) ((8 * (i.toNat / 128) + b : Nat) : Int) ∧
    pixelIndex ((i.toNat % 128 : Nat) : Int) ((8 * (i.toNat / 128) + b : Nat) : Int) = i ∧
    pixelBit ((8 * (i.toNat / 128) + b : Nat) : Int) = b := by
  have hi : i.toNat < 1024 := i.isLt
  have hr : InRange ((i.toNat % 128 : Nat) : Int) ((8 * (i.toNat / 128) + b : Nat) : Int) := by
    simp only [InRange, Config.width_eq, Config.height_eq]
    omega
  refine ⟨hr, ?_, ?_⟩
  · have e := pixelIndex_toNat hr
    apply BitVec.eq_of_toNat_eq
    omega
  · have e := pixelBit_cast ((8 * (i.toNat / 128) + b : Nat) : Int)
    omega

theorem pixelMask_getLsbD (y : Int) {b : Nat} (hb : b < 8) :
    (pixelMask y).getLsbD b = decide (b = pixelBit y) := by
  have h := pixelBit_lt y
  simp only [pixelMask]
  generalize pixelBit y = k at h
  interval_cases b <;> interval_cases k <;> decide

/-- A bit of a framebuffer byte is a pixel (20_memory R43). -/
theorem memRead_getLsbD (m : Memory) (i : FbIndex) {b : Nat} (hb : b < 8) :
    (memRead m i).getLsbD b =
      getPixel m ((i.toNat % 128 : Nat) : Int) ((8 * (i.toNat / 128) + b : Nat) : Int) := by
  obtain ⟨hr, hi, hk⟩ := pixel_of_bit i hb
  rw [getPixel, if_pos hr, hi, hk]

theorem getPixel_out {m : Memory} {x y : Int} (h : ¬ InRange x y) : getPixel m x y = false := if_neg h

theorem getPixel_in {m : Memory} {x y : Int} (h : InRange x y) :
    getPixel m x y = (memRead m (pixelIndex x y)).getLsbD (pixelBit y) := if_pos h

/-- Memories with the same pixels have the same bytes. -/
theorem memRead_ext {m n : Memory} (h : ∀ x y, InRange x y → getPixel m x y = getPixel n x y) (i : FbIndex) :
    memRead m i = memRead n i := by
  apply BitVec.eq_of_getLsbD_eq
  intro b hb
  rw [memRead_getLsbD m i hb, memRead_getLsbD n i hb]
  exact h _ _ (pixel_of_bit i hb).1

/-! ### SetPixel -/

theorem setPixel_out {m : Memory} {x y : Int} (on : Bool) (h : ¬ InRange x y) : setPixel m x y on = m :=
  if_neg h

theorem setPixel_in {m : Memory} {x y : Int} (on : Bool) (h : InRange x y) :
    setPixel m x y on =
      memWrite m (pixelIndex x y) (mergePixel (memRead m (pixelIndex x y)) (pixelMask y) on) := if_pos h

/-- Every byte after SetPixel of an in-range pixel (20_memory R45). -/
theorem memRead_setPixel {m : Memory} {x y : Int} (on : Bool) (h : InRange x y) (j : FbIndex) :
    memRead (setPixel m x y on) j =
      if j = pixelIndex x y then mergePixel (memRead m j) (pixelMask y) on else memRead m j := by
  rw [setPixel_in on h, memRead_memWrite]
  split
  · rename_i hj; rw [hj]
  · rfl

theorem mergePixel_getLsbD (old : Byte) (y : Int) (on : Bool) {b : Nat} (hb : b < 8) :
    (mergePixel old (pixelMask y) on).getLsbD b = if b = pixelBit y then on else old.getLsbD b := by
  have hm := pixelMask_getLsbD y hb
  by_cases h : b = pixelBit y
  · simp only [h, decide_true] at hm
    cases on <;> simp [mergePixel, BitVec.getLsbD_and, BitVec.getLsbD_or,
      BitVec.getLsbD_not, h, hm]
  · simp only [h, decide_false] at hm
    cases on <;> simp only [mergePixel, BitVec.getLsbD_and, BitVec.getLsbD_or, BitVec.getLsbD_not, hm, h,
      hb, if_true, if_false, Bool.false_eq_true, Bool.or_false, Bool.not_false, decide_true, Bool.and_true]

/-- Every pixel after SetPixel: the one written holds the value, no other changes (20_memory R45). -/
theorem getPixel_setPixel {m : Memory} {x y : Int} (on : Bool) (h : InRange x y) (x' y' : Int) :
    getPixel (setPixel m x y on) x' y' = if x' = x ∧ y' = y then on else getPixel m x' y' := by
  by_cases h' : InRange x' y'
  · rw [getPixel_in h', getPixel_in h', memRead_setPixel on h]
    by_cases hi : pixelIndex x' y' = pixelIndex x y
    · rw [if_pos hi, mergePixel_getLsbD _ _ _ (pixelBit_lt y')]
      by_cases hb : pixelBit y' = pixelBit y
      · rw [if_pos hb, if_pos (pixel_unique h' h hi hb)]
      · rw [if_neg hb, if_neg (fun hc => hb (by rw [hc.2]))]
    · rw [if_neg hi, if_neg (fun hc => hi (by rw [hc.1, hc.2]))]
  · rw [getPixel_out h', getPixel_out h', if_neg]
    rintro ⟨rfl, rfl⟩
    exact h' h

theorem wf_setPixel {m : Memory} (h : Memory.wf m) (x y : Int) (on : Bool) :
    Memory.wf (setPixel m x y on) := by
  unfold setPixel
  split
  · exact wf_memWrite h _ _
  · exact h

/-! ### Drawing a list of pixels -/

/-- Every pixel after drawing a list: on if it was, or if it is listed (42_shape_renderer, introduction). -/
theorem getPixel_drawPixels (m : Memory) (ps : List (Int × Int)) {x y : Int} (h : InRange x y) :
    getPixel (drawPixels m ps) x y = (getPixel m x y || decide ((x, y) ∈ ps)) := by
  induction ps generalizing m with
  | nil => simp [drawPixels]
  | cons p ps ih =>
    obtain ⟨px, py⟩ := p
    have e : drawPixels m ((px, py) :: ps) = drawPixels (setPixel m px py true) ps := rfl
    rw [e, ih]
    by_cases hp : InRange px py
    · rw [getPixel_setPixel true hp]
      by_cases hxy : x = px ∧ y = py <;> simp [hxy]
    · rw [setPixel_out true hp]
      have : ¬ (x = px ∧ y = py) := by rintro ⟨rfl, rfl⟩; exact hp h
      simp [this]

/-- Every byte after drawing a list, lane by lane (20_memory R60). -/
theorem memRead_drawPixels_getLsbD (m : Memory) (ps : List (Int × Int)) (i : FbIndex) {b : Nat} (hb : b < 8) :
    (memRead (drawPixels m ps) i).getLsbD b =
      ((memRead m i).getLsbD b ||
        decide ((((i.toNat % 128 : Nat) : Int), ((8 * (i.toNat / 128) + b : Nat) : Int)) ∈ ps)) := by
  rw [memRead_getLsbD _ i hb, memRead_getLsbD _ i hb, getPixel_drawPixels _ _ (pixel_of_bit i hb).1]

/-- Drawing only sets bits (42_shape_renderer R160). -/
theorem drawPixels_keeps (m : Memory) (ps : List (Int × Int)) (i : FbIndex) :
    memRead (drawPixels m ps) i &&& memRead m i = memRead m i := by
  apply BitVec.eq_of_getLsbD_eq
  intro b hb
  rw [BitVec.getLsbD_and, memRead_drawPixels_getLsbD m ps i hb]
  cases (memRead m i).getLsbD b <;> simp

theorem wf_drawPixels {m : Memory} (h : Memory.wf m) (ps : List (Int × Int)) :
    Memory.wf (drawPixels m ps) := by
  induction ps generalizing m with
  | nil => exact h
  | cons p ps ih => exact ih (wf_setPixel h p.1 p.2 true)

end Sys2Proof.Machine
end

