-- ==== Sys2Proof/Laws/Shapes.lean ====
section
/-! SUPPORT. The lists of pixels the renderer draws are the sets the spec defines (42_shape_renderer R150
to R159). -/

namespace Sys2Proof.Machine

/-! ### Clamping -/

theorem clamp_bounds {v lo hi : Int} (h : lo ≤ hi) : lo ≤ clamp v lo hi ∧ clamp v lo hi ≤ hi := by
  unfold clamp
  split
  · omega
  · split <;> omega

/-- Clamping is idempotent (90_conflicts C3). -/
theorem clamp_clamp {v lo hi : Int} (h : lo ≤ hi) : clamp (clamp v lo hi) lo hi = clamp v lo hi := by
  obtain ⟨h1, h2⟩ := clamp_bounds (v := v) h
  generalize clamp v lo hi = u at h1 h2
  unfold clamp
  rw [if_neg (by omega), if_neg (by omega)]

theorem squareLeft_eq (x : Int) : squareLeft x = clamp x 0 120 := by simp [squareLeft]

theorem squareTop_eq (y : Int) : squareTop y = clamp y 0 56 := by simp [squareTop]

/-- Saturating first does not change a clamp inside the field's range (30_encoding R89). -/
theorem clamp_saturate {v hi : Int} (h0 : 0 ≤ hi) (h : hi ≤ 2047) : clamp (saturate v) 0 hi = clamp v 0 hi := by
  unfold saturate clamp
  repeat' split
  all_goals omega

/-- A saturated coordinate is in range exactly when the integer is, and is then the integer
(30_encoding R89). -/
theorem saturate_of_small {v : Int} (h0 : -2048 ≤ v) (h1 : v ≤ 2047) : saturate v = v := by
  unfold saturate clamp
  rw [if_neg (by omega), if_neg (by omega)]

theorem inRange_saturate (x y : Int) : InRange (saturate x) (saturate y) ↔ InRange x y := by
  simp only [InRange, Config.width_eq, Config.height_eq]
  unfold saturate clamp
  repeat' split
  all_goals omega

theorem coordOk_saturate (v : Int) : coordOk (saturate v) = true := by
  obtain ⟨h0, h1⟩ := clamp_bounds (v := v) (show (-2048 : Int) ≤ 2047 by omega)
  simp only [coordOk, Bool.and_eq_true, decide_eq_true_eq]
  exact ⟨h0, h1⟩

/-! ### Membership -/

theorem mem_coords {lo hi : Nat} (h : lo ≤ hi) (v : Int) :
    v ∈ coords lo hi ↔ (lo : Int) ≤ v ∧ v < hi := by
  simp only [coords, List.mem_map, List.mem_range'_1]
  constructor
  · rintro ⟨n, ⟨h1, h2⟩, rfl⟩; omega
  · rintro ⟨h1, h2⟩; exact ⟨v.toNat, by omega, by omega⟩

theorem mem_outline (xs ys : List Int) (left right top bottom x y : Int) :
    (x, y) ∈ outline xs ys left right top bottom ↔
      (x ∈ xs ∧ (y = top ∨ y = bottom)) ∨ (y ∈ ys ∧ (x = left ∨ x = right)) := by
  simp only [outline, List.mem_append, List.mem_flatMap, List.mem_cons, List.not_mem_nil, or_false,
    Prod.mk.injEq]
  constructor
  · rintro (⟨v, hv, ⟨rfl, h⟩ | ⟨rfl, h⟩⟩ | ⟨v, hv, ⟨h, rfl⟩ | ⟨h, rfl⟩⟩)
    · exact .inl ⟨hv, .inl h⟩
    · exact .inl ⟨hv, .inr h⟩
    · exact .inr ⟨hv, .inl h⟩
    · exact .inr ⟨hv, .inr h⟩
  · rintro (⟨hv, h⟩ | ⟨hv, h⟩)
    · exact .inl ⟨x, hv, by simpa using h⟩
    · exact .inr ⟨y, hv, by simpa using h⟩

theorem mem_squarePixels (left top x y : Int) :
    (x, y) ∈ squarePixels left top ↔ InSquare left top x y := by
  simp only [squarePixels, Config.squareSide_eq, List.mem_flatMap, List.mem_map, List.mem_range,
    Prod.mk.injEq, InSquare]
  constructor
  · rintro ⟨dy, h1, dx, h2, rfl, rfl⟩; omega
  · rintro ⟨h1, h2, h3, h4⟩
    exact ⟨(y - top).toNat, by omega, (x - left).toNat, by omega, by omega, by omega⟩

theorem mem_thinPixels (x y : Int) : (x, y) ∈ thinPixels ↔ OnThin x y := by
  simp only [thinPixels, mem_outline, Config.width_eq, Config.height_eq,
    mem_coords (Nat.zero_le _), OnThin]
  omega

theorem mem_insetPixels (x y : Int) : (x, y) ∈ insetPixels ↔ OnInset x y := by
  simp only [insetPixels, mem_outline, Config.insetFullLines_eq, Bool.false_eq_true, if_false,
    Config.width_eq, Config.height_eq, Config.inset_eq, OnInset]
  rw [mem_coords (by omega), mem_coords (by omega)]
  omega

theorem mem_dashedPixels (x y : Int) : (x, y) ∈ dashedPixels ↔ OnDashed x y := by
  simp only [dashedPixels, mem_outline, List.mem_filter, mem_coords (Nat.zero_le _), dashIsOn, decide_eq_true_eq]
  simp only [Config.width_eq, Config.height_eq, Config.dashPeriod_eq, Config.dashOn_eq, OnDashed]
  omega

/-- The pixels drawn for a style are the spec's set (42_shape_renderer R159). -/
theorem mem_borderPixels (st : Style) (x y : Int) : (x, y) ∈ borderPixels st ↔ OnBorder st x y := by
  unfold borderPixels OnBorder
  split
  · rename_i h; subst h; simp [mem_thinPixels]
  · split
    · rename_i h; subst h; simp [mem_thinPixels, mem_insetPixels]
    · split
      · rename_i h; subst h; simp [mem_dashedPixels]
      · simp_all

/-- Every pixel of the clamped square is in range (42_shape_renderer R151). -/
theorem squarePixels_inRange (x y : Int) {p : Int × Int}
    (hp : p ∈ squarePixels (squareLeft x) (squareTop y)) : InRange p.1 p.2 := by
  obtain ⟨px, py⟩ := p
  rw [mem_squarePixels, squareLeft_eq, squareTop_eq] at hp
  have h1 := clamp_bounds (v := x) (show (0 : Int) ≤ 120 by omega)
  have h2 := clamp_bounds (v := y) (show (0 : Int) ≤ 56 by omega)
  simp only [InRange, InSquare, Config.width_eq, Config.height_eq] at *
  omega

/-- Every pixel of every border is in range (42_shape_renderer R159). -/
theorem borderPixels_inRange (st : Style) {p : Int × Int} (hp : p ∈ borderPixels st) : InRange p.1 p.2 := by
  obtain ⟨px, py⟩ := p
  rw [mem_borderPixels] at hp
  simp only [OnBorder, OnThin, OnInset, OnDashed] at hp
  simp only [InRange, Config.width_eq, Config.height_eq]
  omega

/-! ### What the two drawing operations leave -/

open Classical in
/-- Every pixel after the square (42_shape_renderer R151). -/
theorem getPixel_drawSquare (m : Memory) (x y : Int) {px py : Int} (h : InRange px py) :
    getPixel (drawSquare m x y) px py =
      (getPixel m px py || decide (InSquare (clamp x 0 120) (clamp y 0 56) px py)) := by
  rw [drawSquare, getPixel_drawPixels _ _ h, squareLeft_eq, squareTop_eq]
  congr 1
  exact decide_eq_decide.mpr (mem_squarePixels _ _ _ _)

open Classical in
/-- Every pixel after a border (42_shape_renderer R159). -/
theorem getPixel_drawBorder (m : Memory) (st : Style) {px py : Int} (h : InRange px py) :
    getPixel (drawBorder m st) px py = (getPixel m px py || decide (OnBorder st px py)) := by
  rw [drawBorder, getPixel_drawPixels _ _ h]
  congr 1
  exact decide_eq_decide.mpr (mem_borderPixels _ _ _)

end Sys2Proof.Machine
end

