-- ==== Sys2Proof/Laws/Commands.lean ====
section
/-! SUPPORT. What each command does, once (40_framebuffer R100): the gates, and one inversion of `exec`. -/

namespace Sys2Proof.Machine

theorem unlessFatal_of_fatal {s : State} (h : s.fatal = true) (body : State → State) :
    unlessFatal body s = raiseError .errFatal s := by simp [unlessFatal, h]

theorem unlessFatal_of_ready {s : State} (h : s.fatal = false) (body : State → State) :
    unlessFatal body s = body s := by simp [unlessFatal, h]

/-- What a drawing command makes of the framebuffer; nothing for the other commands. -/
def newFb (i : Instr) (s : State) : Option Memory :=
  match i with
  | .clear => some []
  | .pclr x y => some (setPixel s.fb x y false)
  | .pset x y => some (setPixel s.fb x y true)
  | .dsq x y => some (drawSquare s.fb x y)
  | .dbrd sty => some (drawBorder s.fb sty)
  | .dbrdr => some (drawBorder s.fb s.style)
  | .rdb _ | .stnext | .init | .flush | .rdst => none

/-- Everything a command can do to a state. -/
inductive Effect : Instr → State → State → Prop where
  | fatal {i s} : s.fatal = true → i ≠ .rdst → Effect i s (raiseError .errFatal s)
  | status {s} : Effect .rdst s (respond .ok (statusByte s) s)
  | byte {idx s} : s.fatal = false → Effect (.rdb idx) s (respond .ok (memRead s.fb idx) s)
  | draw {i s m} : s.fatal = false → newFb i s = some m → Effect i s (respond .ok 0x00 (writeFb m s))
  | style {s} : s.fatal = false → Effect .stnext s (respond .ok 0x00 (writeStyle (nextStyle s.style) s))
  | initAgain {s} : s.fatal = false → s.inited = true → Effect .init s (raiseError .errState s)
  | initOk {s} : s.fatal = false → s.inited = false → AnswersOk s (initItems Config.machine).length →
      Effect .init s (respond .ok 0x00 (setInited (afterTraffic
        ((initItems Config.machine).map fun it => transactionOf Config.machine it .ok) s)))
  | initFail {s k} (hk : k < (initItems Config.machine).length) : s.fatal = false → s.inited = false →
      FirstFail s k →
      Effect .init s (enterFatal (afterTraffic
        (((initItems Config.machine).take k).map (fun it => transactionOf Config.machine it .ok) ++
          [transactionOf Config.machine (initItems Config.machine)[k] .fail]) s))
  | flushEarly {s} : s.fatal = false → s.inited = false → Effect .flush s (raiseError .errNoInit s)
  | flushOk {s} : s.fatal = false → s.inited = true → AnswersOk s (flushItems Config.machine s.fb).length →
      Effect .flush s (respond .ok 0x00 (writeIoErr false (afterTraffic
        ((flushItems Config.machine s.fb).map fun it => transactionOf Config.machine it .ok) s)))
  | flushFail {s k} (hk : k < (flushItems Config.machine s.fb).length) : s.fatal = false → s.inited = true →
      FirstFail s k →
      Effect .flush s (raiseError .errIo (writeIoErr true (afterTraffic
        (((flushItems Config.machine s.fb).take k).map (fun it => transactionOf Config.machine it .ok) ++
          [transactionOf Config.machine (flushItems Config.machine s.fb)[k] .fail]) s)))

/-- The inversion of `exec`: a next state is one of the effects. -/
theorem effect_of_exec {i : Instr} {s t : State} (h : exec i s = .next t) : Effect i s t := by
  cases hf : s.fatal with
  | true =>
    cases i <;>
      (simp only [exec, execClear, execPclr, execPset, execRdb, execDsq, execDbrd, execDbrdr, execStnext,
        execInit, execFlush, execRdst, unlessFatal_of_fatal hf, Host.Outcome.next.injEq] at h; subst h)
    case rdst => exact .status
    all_goals exact .fatal hf (by simp)
  | false =>
    cases i <;>
      (simp only [exec, execClear, execPclr, execPset, execRdb, execDsq, execDbrd, execDbrdr, execStnext,
        execInit, execFlush, execRdst, unlessFatal_of_ready hf, Host.Outcome.next.injEq] at h; subst h)
    case rdst => exact .status
    case rdb => exact .byte hf
    case stnext => exact .style hf
    case init =>
      cases hi : s.inited with
      | true => simpa [hi] using Effect.initAgain hf hi
      | false =>
        simp only [Bool.false_eq_true, if_false]
        rcases answers_cases s Config.machine.nInit with ha | ⟨k, hk, ha⟩
        · rw [initBody_ok ha]
          exact .initOk hf hi (by rwa [initItems_length])
        · have hk' : k < (initItems Config.machine).length := by rwa [initItems_length]
          rw [initBody_fail hk' ha]
          exact .initFail hk' hf hi ha
    case flush =>
      cases hi : s.inited with
      | false => simpa [hi] using Effect.flushEarly hf hi
      | true =>
        simp only [if_true]
        rcases answers_cases s 1048 with ha | ⟨k, hk, ha⟩
        · rw [flushBody_ok ha]
          exact .flushOk hf hi (by rwa [flushItems_length])
        · have hk' : k < (flushItems Config.machine s.fb).length := by rwa [flushItems_length]
          rw [flushBody_fail hk' ha]
          exact .flushFail hk' hf hi ha
    all_goals exact .draw hf rfl

/-- Every effect is what `exec` answers: with `effect_of_exec`, a command does exactly its effect. -/
theorem exec_of_effect {i : Instr} {s t : State} (h : Effect i s t) : exec i s = .next t := by
  cases h with
  | fatal hf hi =>
    cases i <;> first
      | exact absurd rfl hi
      | (simp only [exec, execClear, execPclr, execPset, execRdb, execDsq, execDbrd, execDbrdr, execStnext,
          execInit, execFlush, unlessFatal_of_fatal hf])
  | status => rfl
  | byte hf => simp only [exec, execRdb, unlessFatal_of_ready hf]
  | draw hf hm =>
    cases i <;> simp only [newFb, Option.some.injEq, reduceCtorEq] at hm <;> subst hm <;>
      simp only [exec, execClear, execPclr, execPset, execDsq, execDbrd, execDbrdr, unlessFatal_of_ready hf]
  | style hf => simp only [exec, execStnext, unlessFatal_of_ready hf]
  | initAgain hf hi => simp only [exec, execInit, unlessFatal_of_ready hf, hi, if_true]
  | initOk hf hi ha =>
    rw [initItems_length] at ha
    simp only [exec, execInit, unlessFatal_of_ready hf, hi, Bool.false_eq_true, if_false, initBody_ok ha]
  | initFail hk hf hi ha =>
    simp only [exec, execInit, unlessFatal_of_ready hf, hi, Bool.false_eq_true, if_false, initBody_fail hk ha]
  | flushEarly hf hi => simp only [exec, execFlush, unlessFatal_of_ready hf, hi, Bool.false_eq_true, if_false]
  | flushOk hf hi ha =>
    rw [flushItems_length] at ha
    simp only [exec, execFlush, unlessFatal_of_ready hf, hi, if_true, flushBody_ok ha]
  | flushFail hk hf hi ha =>
    simp only [exec, execFlush, unlessFatal_of_ready hf, hi, if_true, flushBody_fail hk ha]

/-- A drawing command keeps the canonical form of the framebuffer. -/
theorem wf_newFb {i : Instr} {s : State} {m : Memory} (hw : Memory.wf s.fb) (h : newFb i s = some m) :
    Memory.wf m := by
  cases i <;> simp only [newFb, Option.some.injEq, reduceCtorEq] at h <;> subst h
  · exact Memory.wf_nil
  · exact wf_setPixel hw _ _ _
  · exact wf_setPixel hw _ _ _
  · exact wf_drawPixels hw _
  · exact wf_drawPixels hw _
  · exact wf_drawPixels hw _

end Sys2Proof.Machine
end

