-- ==== Sys2Proof/Laws/Encoding.lean ====
section
/-! SUPPORT. Fields of encoded words, format by format (30_encoding R71 to R75). -/

namespace Sys2Proof

/-- The masked top byte of a format P word is its opcode and selector (30_encoding R72, R78). -/
theorem encodeP_mask (top : Byte) (x y : Int) : encodeP top x y &&& 0xFF000000#32 = top ++ 0#24 := by
  unfold encodeP
  generalize fieldOfCoord x = xf
  generalize fieldOfCoord y = yf
  apply BitVec.eq_of_getLsbD_eq
  intro i hi
  rw [BitVec.getLsbD_and]
  simp only [BitVec.getLsbD_append]
  interval_cases i <;> simp

/-- The masked bits of a format I word (30_encoding R73, R78). -/
theorem encodeI_mask (idx : FbIndex) : encode (.rdb idx) &&& 0xFFFFFC00#32 = 0x30000000#32 := by
  simp only [encode]
  apply BitVec.eq_of_getLsbD_eq
  intro i hi
  rw [BitVec.getLsbD_and]
  simp only [BitVec.getLsbD_append]
  interval_cases i <;> simp

/-- The masked bits of a format S word with `r = 0` (30_encoding R74, R78). -/
theorem encodeS_mask (sty : Style) : encode (.dbrd sty) &&& 0xFFFFFFFC#32 = 0x50000000#32 := by
  revert sty; decide

/-- A coordinate in the field's range comes back from its field (30_encoding R75). -/
theorem coordOfField_fieldOfCoord {v : Int} (h : coordOk v = true) : coordOfField (fieldOfCoord v) = v := by
  simp only [coordOk, Bool.and_eq_true, decide_eq_true_eq] at h
  rw [coordOfField, fieldOfCoord, BitVec.toInt_ofInt]
  exact Int.bmod_eq_of_le (by omega) (by omega)

/-- A field comes back from its coordinate (30_encoding R75). -/
theorem fieldOfCoord_coordOfField (f : CoordField) : fieldOfCoord (coordOfField f) = f :=
  BitVec.ofInt_toInt

/-- Every field is a coordinate in range (30_encoding R75). -/
theorem coordOk_coordOfField (f : CoordField) : coordOk (coordOfField f) = true := by
  have h1 := BitVec.le_toInt f
  have h2 := BitVec.toInt_lt (x := f)
  simp only [coordOk, Bool.and_eq_true, decide_eq_true_eq]
  rw [coordOfField]
  constructor <;> omega

/-! ### The fields of a format P word -/

theorem opField_encodeP (top : Byte) (x y : Int) : opField (encodeP top x y) = top.extractLsb' 4 4 := by
  unfold encodeP opField
  apply BitVec.eq_of_getLsbD_eq
  intro i hi
  simp only [BitVec.getLsbD_extractLsb', BitVec.getLsbD_append]
  interval_cases i <;> simp

theorem resHigh_encodeP (top : Byte) (x y : Int) : resHigh (encodeP top x y) = top.extractLsb' 1 3 := by
  unfold encodeP resHigh
  apply BitVec.eq_of_getLsbD_eq
  intro i hi
  simp only [BitVec.getLsbD_extractLsb', BitVec.getLsbD_append]
  interval_cases i <;> simp

theorem selField_encodeP (top : Byte) (x y : Int) : selField (encodeP top x y) = top.extractLsb' 0 1 := by
  unfold encodeP selField
  apply BitVec.eq_of_getLsbD_eq
  intro i hi
  simp only [BitVec.getLsbD_extractLsb', BitVec.getLsbD_append]
  interval_cases i; simp

theorem yField_encodeP (top : Byte) (x y : Int) : yField (encodeP top x y) = fieldOfCoord y := by
  unfold encodeP yField
  generalize fieldOfCoord x = xf
  generalize fieldOfCoord y = yf
  apply BitVec.eq_of_getLsbD_eq
  intro i hi
  simp only [BitVec.getLsbD_extractLsb', BitVec.getLsbD_append]
  interval_cases i <;> simp

theorem xField_encodeP (top : Byte) (x y : Int) : xField (encodeP top x y) = fieldOfCoord x := by
  unfold encodeP xField
  generalize fieldOfCoord x = xf
  generalize fieldOfCoord y = yf
  apply BitVec.eq_of_getLsbD_eq
  intro i hi
  simp only [BitVec.getLsbD_extractLsb', BitVec.getLsbD_append]
  interval_cases i <;> simp

end Sys2Proof
end

