-- ==== Sys2Proof/Laws/PerInstr.lean ====
section
/-! SUPPORT. Statements about every command, one lemma per constructor. -/

namespace Sys2Proof.Laws.TableRow

/-- The encoded word selects the row of its own mnemonic in the opcode table (30_encoding R78). -/
def Statement (i : Instr) : Prop := ∃ r ∈ opcodeTable, r.mnemonic = i.mnemonic ∧ r.selectedBy (encode i)

theorem clear : Statement .clear := ⟨⟨.CLEAR, 0x10000000#32, 0xFFFFFFFF#32⟩, by decide, rfl, by decide⟩

theorem pclr (x y : Int) : Statement (.pclr x y) :=
  ⟨⟨.PCLR, 0x20000000#32, 0xFF000000#32⟩, by decide, rfl, encodeP_mask 0x20#8 x y⟩

theorem pset (x y : Int) : Statement (.pset x y) :=
  ⟨⟨.PSET, 0x21000000#32, 0xFF000000#32⟩, by decide, rfl, encodeP_mask 0x21#8 x y⟩

theorem rdb (idx : FbIndex) : Statement (.rdb idx) :=
  ⟨⟨.RDB, 0x30000000#32, 0xFFFFFC00#32⟩, by decide, rfl, encodeI_mask idx⟩

theorem dsq (x y : Int) : Statement (.dsq x y) :=
  ⟨⟨.DSQ, 0x40000000#32, 0xFF000000#32⟩, by decide, rfl, encodeP_mask 0x40#8 x y⟩

theorem dbrd (sty : Style) : Statement (.dbrd sty) :=
  ⟨⟨.DBRD, 0x50000000#32, 0xFFFFFFFC#32⟩, by decide, rfl, encodeS_mask sty⟩

theorem dbrdr : Statement .dbrdr := ⟨⟨.DBRDR, 0x51000000#32, 0xFFFFFFFF#32⟩, by decide, rfl, by decide⟩

theorem stnext : Statement .stnext := ⟨⟨.STNEXT, 0x60000000#32, 0xFFFFFFFF#32⟩, by decide, rfl, by decide⟩

theorem init : Statement .init := ⟨⟨.INIT, 0x70000000#32, 0xFFFFFFFF#32⟩, by decide, rfl, by decide⟩

theorem flush : Statement .flush := ⟨⟨.FLUSH, 0x80000000#32, 0xFFFFFFFF#32⟩, by decide, rfl, by decide⟩

theorem rdst : Statement .rdst := ⟨⟨.RDST, 0x90000000#32, 0xFFFFFFFF#32⟩, by decide, rfl, by decide⟩

end Sys2Proof.Laws.TableRow
end

