-- ==== Sys2Proof/Laws/Traffic.lean ====
section
/-! SUPPORT. The traffic of a flush, transaction by transaction (41_display_driver R128). -/

namespace Sys2Proof.Machine

theorem pageItems_getElem (C : Config) (m : Memory) (p : Fin 8) {k : Nat} (hk : k < (pageItems C m p).length) :
    (pageItems C m p)[k] =
      if k = 0 then .command (C.cmdPage p) else if k = 1 then .command C.cmdColLo
      else if k = 2 then .command C.cmdColHi else .data (memRead m (pageIndex p (k - 3))) := by
  match k, hk with
  | 0, _ => rfl
  | 1, _ => rfl
  | 2, _ => rfl
  | k + 3, hk => simp [pageItems]

/-- Pages of equal length concatenated: the `t`-th element is in page `t / n`, at place `t % n`. -/
theorem getElem?_flatMap_finRange {α : Type} (n : Nat) (hn : 0 < n) : ∀ (N : Nat) (f : Fin N → List α),
    (∀ p, (f p).length = n) → ∀ (t : Nat) (ht : t / n < N),
    ((List.finRange N).flatMap f)[t]? = (f ⟨t / n, ht⟩)[t % n]? := by
  intro N
  induction N with
  | zero => intro f _ t ht; exact absurd ht (Nat.not_lt_zero _)
  | succ N ih =>
    intro f hf t ht
    rw [List.finRange_succ, List.flatMap_cons, List.flatMap_map]
    by_cases h : t < n
    · rw [List.getElem?_append_left (by rw [hf]; exact h)]
      have h0 : t / n = 0 := Nat.div_eq_of_lt h
      have e : (⟨t / n, ht⟩ : Fin (N + 1)) = 0 := Fin.ext h0
      rw [e, Nat.mod_eq_of_lt h]
    · have hge : n ≤ t := Nat.le_of_not_lt h
      have hd : t / n = (t - n) / n + 1 := by
        rw [Nat.div_eq t n, if_pos ⟨hn, hge⟩]
      have hm : t % n = (t - n) % n := Nat.mod_eq_sub_mod hge
      rw [List.getElem?_append_right (by rw [hf]; exact hge), hf,
        ih (fun p => f p.succ) (fun p => hf p.succ) (t - n) (by omega), hm]
      have e : (⟨(t - n) / n, by omega⟩ : Fin N).succ = ⟨t / n, ht⟩ := Fin.ext hd.symm
      rw [e]

/-- Transaction `t` of a complete flush carries item `t` (41_display_driver R128). -/
theorem transactionOf_flushItems (C : Config) (m : Memory) (a : BusAnswer) {t : Nat}
    (ht : t < (flushItems C m).length) :
    transactionOf C (flushItems C m)[t] a = flushTransaction C m t a := by
  have ht' : t < 1048 := by rwa [flushItems_length] at ht
  have hp : t / 131 < 8 := by omega
  have hk : t % 131 < (pageItems C m ⟨t / 131, hp⟩).length := by
    rw [pageItems_length]; exact Nat.mod_lt _ (by omega)
  have e : (flushItems C m)[t]'ht = (pageItems C m ⟨t / 131, hp⟩)[t % 131]'hk := by
    have h : (flushItems C m)[t]? = _ :=
      getElem?_flatMap_finRange 131 (by omega) 8 (pageItems C m) (pageItems_length C m) t hp
    rw [List.getElem?_eq_getElem ht, List.getElem?_eq_getElem hk] at h
    exact Option.some.inj h
  have hf : Fin.ofNat 8 (t / 131) = ⟨t / 131, hp⟩ := Fin.ext (Nat.mod_eq_of_lt hp)
  rw [e, pageItems_getElem]
  simp only [flushTransaction, hf, transactionOf]
  split
  · rfl
  · split
    · rfl
    · split
      · rfl
      · simp [itemCtl, itemPayload, Config.ctlData, pageIndex]

/-- Transaction `i` of a complete initialisation carries item `i` (41_display_driver R123). -/
theorem transactionOf_initItems (C : Config) (a : BusAnswer) {i : Nat} (hi : i < (initItems C).length) :
    transactionOf C (initItems C)[i] a = initTransaction C i a := by
  have hi' : i < C.initSeq.length := by simpa [initItems] using hi
  simp [initItems, transactionOf, initTransaction, itemCtl, itemPayload, Config.ctlCmd, hi']

end Sys2Proof.Machine
end

