-- ==== Sys2Proof/Tests/Slice0.lean ====
section
/-! SUPPORT. Tests with expected results from the spec's own examples and vectors, and for every statement
of Obligations.lean with hypotheses a witness that they can be met. -/

namespace Sys2Proof.Tests

open Sys2Proof Sys2Proof.Machine

/-! ### Helpers -/

/-- The state an outcome leaves, if it leaves one. -/
def stateOf (o : Outcome) : Option State :=
  match o with
  | .next s => some s
  | .fault _ => none
  | .refused _ => none

/-- One field of the state after a command. -/
def after {α : Type} (i : Instr) (s : State) (f : State → α) : Option α := (stateOf (exec i s)).map f

/-- One field of the state after one step on a word. -/
def afterWord {α : Type} (w : Nat) (s : State) (f : State → α) : Option α :=
  (stateOf (step (s.withFetchWord 32 w))).map f

/-- The reset state with the given framebuffer entries. -/
def fbOf (m : Memory) : State := { State.reset with fb := m }

/-- A state in which `INIT` has succeeded. -/
def initedState : State := { State.reset with inited := true }

/-- The FATAL state. -/
def fatalState : State := { State.reset with fatal := true }

/-- A state whose next `n` transactions are acknowledged. -/
def busOk (s : State) (n : Nat) : State := { s with busAnswers := List.replicate n .ok }

/-- A state whose first failure is transaction number `k`. -/
def busFail (s : State) (k : Nat) : State := { s with busAnswers := List.replicate k .ok ++ [.fail] }

theorem busOk_answers (s : State) (n : Nat) : AnswersOk (busOk s n) n := by
  intro k hk
  simp [answerAt, busOk, hk]

theorem busFail_first (s : State) (k : Nat) : FirstFail (busFail s k) k := by
  refine ⟨fun j hj => ?_, ?_⟩
  · simp [answerAt, busFail, List.getElem?_append_left, hj]
  · simp [answerAt, busFail]

/-! ### WellFormed refuses what no field carries (30_encoding R75, R86) -/

theorem test_wf_x_low : (Instr.pset (-2049) 0).wf = false := by decide
theorem test_wf_x_high : (Instr.pset 2048 0).wf = false := by decide
theorem test_wf_y_low : (Instr.pclr 0 (-2049)).wf = false := by decide
theorem test_wf_y_high : (Instr.dsq 0 2048).wf = false := by decide
theorem test_wf_edges : (Instr.dsq (-2048) 2047).wf = true ∧ (Instr.pclr 2047 (-2048)).wf = true := by decide
theorem test_wf_not_truncated : assemble (.pset 4096 0) = none := by decide

/-! ### Words, written out from 30_encoding R78 and 95_test_vectors -/

theorem test_word_clear : decode 0x10000000#32 = .command .clear := by decide
theorem test_word_pclr : decode 0x2000A005#32 = .command (.pclr 5 10) := by decide
theorem test_word_pset : decode 0x2100A005#32 = .command (.pset 5 10) := by decide
theorem test_word_rdb : decode 0x30000085#32 = .command (.rdb 133) := by decide
theorem test_word_dsq : decode 0x4001C03C#32 = .command (.dsq 60 28) := by decide
theorem test_word_dbrd : decode 0x50000001#32 = .command (.dbrd 1) := by decide
theorem test_word_dbrdr : decode 0x51000000#32 = .command .dbrdr := by decide
theorem test_word_stnext : decode 0x60000000#32 = .command .stnext := by decide
theorem test_word_init : decode 0x70000000#32 = .command .init := by decide
theorem test_word_flush : decode 0x80000000#32 = .command .flush := by decide
theorem test_word_rdst : decode 0x90000000#32 = .command .rdst := by decide
theorem test_encode_dsq : encode (.dsq 60 28) = 0x4001C03C#32 := by decide
theorem test_encode_pset : encode (.pset 5 10) = 0x2100A005#32 := by decide
theorem test_table_word : decodeTableWord 32 0x51000001 = none := by decide

/-! ### Framebuffer commands (40_framebuffer R101 to R104, their examples) -/

theorem test_clear : after .clear (fbOf [(133, 0x04), (444, 0xF0)]) State.fb = some [] := by decide
theorem test_clear_keeps_style : after .clear { fbOf [(5, 1)] with style := 3 } State.style = some 3 := by decide
theorem test_pset : after (.pset 5 10) State.reset State.fb = some [(133, 0x04)] := by decide
theorem test_pset_no_wrap : after (.pset 128 0) State.reset State.fb = some [] := by decide
theorem test_pclr : after (.pclr 5 10) (fbOf [(133, 0xFF)]) State.fb = some [(133, 0xFB)] := by decide
theorem test_pclr_last : after (.pclr 127 63) (fbOf [(1023, 0x80)]) State.fb = some [] := by decide
theorem test_rdb : after (.rdb 133) (fbOf [(133, 0x04)]) State.responses = some [0x0004] := by decide
theorem test_rdb_fatal : after (.rdb 133) { fbOf [(133, 4)] with fatal := true } State.responses = some [0x2000] := by
  decide

/-! ### Renderer commands (42_shape_renderer R151, R156 to R158, their examples) -/

theorem test_dsq : after (.dsq 60 28) State.reset State.fb = some
    [(444, 0xF0), (445, 0xF0), (446, 0xF0), (447, 0xF0), (448, 0xF0), (449, 0xF0), (450, 0xF0), (451, 0xF0),
     (572, 0x0F), (573, 0x0F), (574, 0x0F), (575, 0x0F), (576, 0x0F), (577, 0x0F), (578, 0x0F),
     (579, 0x0F)] := by decide +kernel
theorem test_dsq_clamps : after (.dsq (-2048) 2047) State.reset State.fb = some
    [(896, 0xFF), (897, 0xFF), (898, 0xFF), (899, 0xFF), (900, 0xFF), (901, 0xFF), (902, 0xFF),
     (903, 0xFF)] := by decide +kernel
theorem test_dbrd_thin : ∃ t, exec (.dbrd 1) State.reset = .next t ∧ getPixel t.fb 127 5 = true ∧
    getPixel t.fb 64 63 = true ∧ getPixel t.fb 64 62 = false := by
  refine ⟨_, exec_of_effect (Effect.draw rfl rfl), ?_⟩
  have e (m : Memory) : drawBorder m 1 = drawPixels m thinPixels := by simp [drawBorder, borderPixels]
  simp only [respond_fb, writeFb_fb, e]
  rw [getPixel_drawPixels _ _ (by decide), getPixel_drawPixels _ _ (by decide), getPixel_drawPixels _ _ (by decide)]
  decide +kernel
theorem test_dbrd_none : after (.dbrd 0) State.reset State.fb = some [] := by decide
theorem test_dbrdr_reset : after .dbrdr State.reset State.fb = some [] := by decide
theorem test_dbrdr_dashed : ∃ t, exec .dbrdr { State.reset with style := 3 } = .next t ∧
    getPixel t.fb 125 0 = true ∧ getPixel t.fb 126 0 = false ∧ getPixel t.fb 127 5 = true := by
  refine ⟨_, exec_of_effect (Effect.draw rfl rfl), ?_⟩
  have e (m : Memory) : drawBorder m 3 = drawPixels m dashedPixels := by simp [drawBorder, borderPixels]
  simp only [respond_fb, writeFb_fb, e]
  rw [getPixel_drawPixels _ _ (by decide), getPixel_drawPixels _ _ (by decide), getPixel_drawPixels _ _ (by decide)]
  decide +kernel
theorem test_stnext : after .stnext { State.reset with style := 1 } State.style = some 2 := by decide
theorem test_stnext_wraps : after .stnext { State.reset with style := 3 } State.style = some 0 := by decide

/-! ### Driver commands (41_display_driver R124 to R131, their examples and corner cases) -/

/-- The controller is absent: one transaction, FATAL, ERR_INITFAIL (R124). -/
theorem test_init_absent : after .init (busFail State.reset 0)
      (fun s => (s.fatal, s.inited, s.responses, s.trace.map Transaction.answer))
    = some (true, false, [0x6000], [.fail]) := by decide
theorem test_init_again : after .init initedState (fun s => (s.responses, s.trace)) = some ([0x3000], []) := by decide
theorem test_flush_early : after .flush { State.reset with ioErr := true }
    (fun s => (s.responses, s.ioErr, s.trace)) = some ([0x4000], true, []) := by decide
/-- The failure of the first data byte: three commands sent, then `[0x40, FB[0]]` (R127, R128). -/
theorem test_flush_fails : after .flush (busFail { initedState with fb := [(0, 0xA5)] } 3)
      (fun s => (s.responses, s.ioErr, s.fatal, s.trace.map Transaction.ctl, (s.trace.map Transaction.payload)[3]?))
    = some ([0x5000], true, false, [0x00, 0x00, 0x00, 0x40], some 0xA5) := by decide +kernel
theorem test_rdst_style : after .rdst { initedState with style := 2 } State.responses = some [0x0006] := by decide
theorem test_rdst_fatal : after .rdst fatalState State.responses = some [0x0008] := by decide

/-- The candidate parameters of 93_implementation_defined G1 and G2 (general knowledge; no rule uses them). -/
def candidate : Config where
  initHead := 0xAE
  initTail := [0xD5, 0x80]
  cmdPage := fun p => BitVec.ofNat 8 (0xB0 + p)
  cmdColLo := 0x00
  cmdColHi := 0x10

/-- The traffic of a flush at the start of page 3 (95_test_vectors, R128), transaction 393 = 3 * 131. -/
theorem test_flush_page :
    ((flushItems candidate [(384, 0x81)]).drop 393).take 5 =
      [.command 0xB3, .command 0x00, .command 0x10, .data 0x81, .data 0x00] := by decide +kernel

/-! ### The step, reset, the assembler -/

theorem test_illegal_in_fatal : afterWord 0xFFFFFFFF fatalState State.responses = some [0x1000] := by decide
theorem test_step_word : afterWord 0x2100A005 State.reset (fun s => (s.fb, s.responses, s.inputs))
    = some ([(133, 0x04)], [0x0000], []) := by decide
theorem test_reset_leaves_fatal :
    (stateOf (step { fatalState with inputs := [.reset], responses := [0x6000] })) = some State.reset := by decide
theorem test_idle : stateOf (step State.reset) = some State.reset := by decide
theorem test_line : assembleLine "PSET -1, 5 ; left edge".toList = some [0x21005FFF#32] := by decide +kernel
theorem test_line_frame : assembleLine "FRAME thin, 60, 28".toList
    = some [0x10000000#32, 0x50000001#32, 0x4001C03C#32, 0x80000000#32] := by decide +kernel
theorem test_line_rejects : assembleLine "PSET 4096, 0".toList = none := by decide +kernel

/-! ### Witnesses: for each statement with hypotheses, states and operands that meet them, at the boundary
of each clause -/

theorem witness_EncodedCommandDecodesBack :
    (Instr.pset (-2048) 2047).WellFormed ∧ (Instr.pclr 2047 (-2048)).WellFormed ∧ (Instr.dsq 0 (-1)).WellFormed ∧
    (Instr.rdb 1023).WellFormed ∧ (Instr.dbrd 3).WellFormed := by decide

theorem witness_DecodedWordEncodesBack :
    decode 0x21FFF800#32 = .command (.pset (-2048) (-1)) ∧ decode 0x300003FF#32 = .command (.rdb 1023) := by decide

theorem witness_WordSelectsExactlyItsTableRow :
    (∀ r ∈ opcodeTable, r.pattern &&& r.mask = r.pattern) ∧
    decode 0x207FF800#32 = .command (.pclr (-2048) 2047) ∧ decode 0x407FF7FF#32 = .command (.dsq 2047 2047) ∧
    decode 0x300003FF#32 = .command (.rdb 1023) ∧ decode 0x50000003#32 = .command (.dbrd 3) := by decide

theorem witness_IllegalWordsChangeNothing :
    (∀ w ∈ [0x0FFFFFFF#32, 0xA0000000#32, 0xFFFFFFFF#32, 0x10000001#32, 0x68000000#32, 0x90000001#32, 0x22000000#32,
        0x48000000#32, 0x30000400#32, 0x52000000#32, 0x50000004#32, 0x41000000#32, 0x51000001#32],
      IllegalClass w) ∧
    (State.reset.withFetchWord 32 0).inputs = .word 0#32 :: [] := by
  refine ⟨fun w hw => ?_, rfl⟩
  simp only [List.mem_cons, List.not_mem_nil, or_false] at hw
  rcases hw with rfl | rfl | rfl | rfl | rfl | rfl | rfl | rfl | rfl | rfl | rfl | rfl | rfl <;>
    (unfold IllegalClass; decide)

theorem witness_CoordinatesAreSignExtendedFields :
    decode 0x218007FF#32 = .command (.pset 2047 (-2048)) ∧ bitsNat 0x218007FF#32 11 0 = 2047 ∧
    bitsNat 0x218007FF#32 23 12 = 2048 ∧ decode 0x20000000#32 = .command (.pclr 0 0) ∧
    decode 0x40FFFFFF#32 = .command (.dsq (-1) (-1)) := by decide

theorem witness_AssembledWordsFollowTheTable :
    coordOk (-2048) = true ∧ coordOk 2047 = true ∧ ¬ (Instr.pset 2048 0).WellFormed := by decide

theorem witness_StepRunsTheDecodedCommand :
    (State.reset.withFetchWord 32 0x90000000).inputs = .word 0x90000000#32 :: [] ∧
    decode 0x90000000#32 = .command .rdst ∧ Instr.rdst.WellFormed := by decide

theorem witness_NoInputLeavesTheMachineIdle : State.reset.inputs = [] := rfl

theorem witness_ResetRestoresAndIsTheOnlyExit :
    ({ fatalState with inputs := [.reset] } : State).inputs = .reset :: [] ∧
    (∃ t, step { fatalState with inputs := [.reset] } = .next t ∧ fatalState.fatal = true ∧ t.fatal = false) ∧
    (∃ t, step { initedState with inputs := [.resetDuring 0x80000000#32] } = .next t ∧
      initedState.inited = true ∧ t.inited = false) :=
  ⟨rfl, ⟨_, rfl, rfl, rfl⟩, ⟨_, rfl, rfl, rfl⟩⟩

theorem witness_ResetDuringACommandAbandonsIt :
    ({ initedState with inputs := [.resetDuring 0x80000000#32] } : State).inputs
      = .resetDuring 0x80000000#32 :: [] := rfl

theorem witness_EveryWordIsAnsweredOnce :
    ∃ t, step (State.reset.withFetchWord 32 0x60000000) = .next t ∧
      (State.reset.withFetchWord 32 0x60000000).inputs = .word 0x60000000#32 :: [] := ⟨_, rfl, rfl⟩

theorem witness_ErrorPriorityDecidesTheCode :
    decode 0x00000000#32 = .illegal .unassignedOpcode ∧
    (fatalState.fatal = true ∧ decode 0x80000000#32 = .command .flush ∧ Instr.flush ≠ .rdst) ∧
    (initedState.fatal = false ∧ initedState.inited = true ∧ decode 0x70000000#32 = .command .init) ∧
    (State.reset.fatal = false ∧ State.reset.inited = false) ∧
    (∃ k < Config.machine.nInit, answerAt (busFail State.reset 0) k = .fail) ∧
    AnswersOk (busOk State.reset Config.machine.nInit) Config.machine.nInit ∧
    (∃ k < 1048, answerAt (busFail initedState 1047) k = .fail) ∧ AnswersOk (busOk initedState 1048) 1048 ∧
    (decode 0x10000000#32 = .command .clear ∧ Instr.clear ≠ .init ∧ Instr.clear ≠ .flush) ∧
    (State.reset.withFetchWord 32 0).inputs = .word 0#32 :: [] :=
  ⟨by decide, by decide, by decide, by decide, ⟨0, Config.machine.nInit_pos, (busFail_first _ 0).2⟩,
    busOk_answers _ _, ⟨1047, by omega, (busFail_first _ 1047).2⟩, busOk_answers _ _, by decide, by decide⟩

theorem witness_FatalStateEntryStayAndExit :
    (∃ t, exec .init (busFail State.reset 0) = .next t ∧ (busFail State.reset 0).fatal = false ∧
      t.fatal = true) ∧
    (fatalState.fatal = true ∧ Instr.flush ≠ .rdst) ∧ IllegalClass 0#32 ∧
    (fatalState.withFetchWord 32 0).inputs = .word 0#32 :: [] ∧
    (∃ t, step { fatalState with inputs := [.reset] } = .next t ∧ t.fatal = false) :=
  ⟨⟨_, rfl, rfl, rfl⟩, by decide, .inl (by decide), rfl, ⟨_, rfl, rfl⟩⟩

theorem witness_ErrorsArePrecise :
    (∃ t, exec .flush fatalState = .next t ∧ t.responses = fatalState.responses ++ [responseWord .errFatal 0]) ∧
    (∃ t, exec .init initedState = .next t ∧ t.responses = initedState.responses ++ [responseWord .errState 0]) ∧
    (∃ t, exec .flush State.reset = .next t ∧ t.responses = [responseWord .errNoInit 0]) ∧
    (∃ t, exec .flush (busFail initedState 0) = .next t ∧ t.responses = [responseWord .errIo 0]) ∧
    (∃ t, exec .init (busFail State.reset 0) = .next t ∧ t.responses = [responseWord .errInitFail 0]) :=
  ⟨⟨_, rfl, rfl⟩, ⟨_, rfl, rfl⟩, ⟨_, rfl, rfl⟩, ⟨_, rfl, rfl⟩, ⟨_, rfl, rfl⟩⟩

/-- A state with the invariant, an error response, a listed byte and every bit in use; and a step from it. -/
theorem witness_StepKeepsTheInvariant :
    let s : State := { initedState with
      fb := [(0, 0x01), (1023, 0x80)], ioErr := true, responses := [0x5000], inputs := [.word 0x60000000#32] }
    StateInv s ∧ ∃ t, step s = .next t := by
  refine ⟨⟨by decide, by decide, by decide, ?_, by simp [initedState, State.reset]⟩, _, rfl⟩
  simp [ResponseOk]

theorem witness_EachFieldHasItsWriters :
    (∃ t, exec .rdst State.reset = .next t) ∧ (∃ t, exec .stnext State.reset = .next t) ∧
    Instr.rdst.mnemonic ∉ [Mnemonic.CLEAR, .PSET, .PCLR, .DSQ, .DBRD, .DBRDR] ∧
    (Instr.rdst ≠ .stnext ∧ Instr.rdst ≠ .init ∧ Instr.rdst ≠ .flush) :=
  ⟨⟨_, rfl⟩, ⟨_, rfl⟩, by decide, by decide⟩

theorem witness_HistoriesAreNeverRead : ∃ t, exec .flush (busFail initedState 0) = .next t := ⟨_, rfl⟩

theorem witness_PixelAddressingIsABijection :
    (∀ p ∈ [((0 : Int), (0 : Int)), (127, 0), (0, 63), (127, 63)], 0 ≤ p.1 ∧ p.1 < 128 ∧ 0 ≤ p.2 ∧ p.2 < 64) ∧
    pixelIndex 127 63 = 1023 ∧ pixelBit 63 = 7 ∧ pixelIndex 0 63 = 896 ∧ (7 : Nat) < 8 := by decide

theorem witness_OutOfRangePixelsAreDropped :
    ((-1 : Int) < 0 ∧ (128 : Int) ≤ 128 ∧ (64 : Int) ≤ 64) ∧ ¬ InRange (-1) 0 ∧ ¬ InRange 128 0 ∧ ¬ InRange 0 (-1) ∧
    ¬ InRange 0 64 ∧ State.reset.fatal = false := by decide

theorem witness_ClearTurnsEveryPixelOff :
    State.reset.fatal = false ∧ fatalState.fatal = true ∧ InRange 127 63 := by decide

theorem witness_PsetTurnsOnePixelOn :
    State.reset.fatal = false ∧ fatalState.fatal = true ∧ InRange 127 63 ∧ InRange 0 0 ∧ ¬ InRange 128 63 ∧
    ¬ InRange 0 (-1) := by decide

theorem witness_PclrTurnsOnePixelOff :
    State.reset.fatal = false ∧ fatalState.fatal = true ∧ InRange 127 63 ∧ ¬ InRange 127 64 ∧
    ((126 : Int), (63 : Int)) ≠ (127, 63) ∧ getPixel State.reset.fb 127 63 = false := by decide

theorem witness_RdbReturnsTheByte : State.reset.fatal = false ∧ fatalState.fatal = true ∧ (7 : Nat) < 8 := by decide

theorem witness_DsqFillsTheClampedSquare :
    State.reset.fatal = false ∧ fatalState.fatal = true ∧ InRange 127 63 ∧ InSquare 120 56 127 63 := by
  unfold InSquare; decide

theorem witness_DsqBytesFollowTheMasks : State.reset.fatal = false := rfl

theorem witness_DbrdDrawsTheStylesPixels :
    State.reset.fatal = false ∧ fatalState.fatal = true ∧ InRange 125 61 ∧ OnBorder 1 127 63 ∧ OnBorder 2 125 61 ∧
    OnBorder 3 125 63 :=
  ⟨by decide, by decide, by decide, .inl ⟨rfl, .inl (by decide)⟩, .inr (.inl ⟨rfl, .inr (.inl (by decide))⟩),
    .inr (.inr ⟨rfl, .inl (by decide)⟩)⟩

theorem witness_DbrdrDrawsTheCurrentStyle :
    State.reset.fatal = false ∧ fatalState.fatal = true ∧ InRange 0 0 := by decide

theorem witness_StnextCyclesTheStyle : State.reset.fatal = false ∧ fatalState.fatal = true := by decide

theorem witness_RendererNeverErases :
    (∃ t, exec (.dsq 0 0) State.reset = .next t) ∧ (∃ t, exec (.dbrd 3) State.reset = .next t) ∧
    (∃ t, exec .dbrdr State.reset = .next t) ∧ (Instr.dsq 0 0).mnemonic ∈ [Mnemonic.DSQ, .DBRD, .DBRDR] ∧
    (Instr.dbrd 3).mnemonic ∈ [Mnemonic.DSQ, .DBRD, .DBRDR] ∧ Instr.dbrdr.mnemonic ∈ [Mnemonic.DSQ, .DBRD, .DBRDR] :=
  ⟨⟨_, rfl⟩, ⟨_, rfl⟩, ⟨_, rfl⟩, by decide, by decide, by decide⟩

theorem witness_FrameLeavesBorderAndSquare :
    let s : State := { busOk initedState 1048 with inputs := presented (expand (.frame 2 2047 (-2048))) ++ [.reset] }
    coordOk 2047 = true ∧ coordOk (-2048) = true ∧ s.fatal = false ∧ s.inited = true ∧ AnswersOk s 1048 ∧
    s.inputs = presented (expand (.frame 2 2047 (-2048))) ++ [.reset] ∧ InRange 127 63 :=
  ⟨by decide, by decide, rfl, rfl, busOk_answers initedState 1048, rfl, by decide⟩

theorem witness_InitSendsTheSequence :
    let s := busOk State.reset Config.machine.nInit
    s.fatal = false ∧ s.inited = false ∧ AnswersOk s Config.machine.nInit := ⟨rfl, rfl, busOk_answers _ _⟩

theorem witness_InitStopsAtTheFirstFailure :
    (let s := busFail State.reset 0
     s.fatal = false ∧ s.inited = false ∧ 0 < Config.machine.nInit ∧ FirstFail s 0) ∧
    (let s := busFail State.reset (Config.machine.nInit - 1)
     s.fatal = false ∧ s.inited = false ∧ Config.machine.nInit - 1 < Config.machine.nInit ∧
      FirstFail s (Config.machine.nInit - 1)) :=
  ⟨⟨rfl, rfl, Config.machine.nInit_pos, busFail_first _ _⟩,
    ⟨rfl, rfl, Nat.sub_lt Config.machine.nInit_pos (by omega), busFail_first _ _⟩⟩

theorem witness_SecondInitIsRefused : initedState.fatal = false ∧ initedState.inited = true := by decide

theorem witness_FlushSendsTheWholeFramebuffer :
    let s := busOk initedState 1048
    s.fatal = false ∧ s.inited = true ∧ AnswersOk s 1048 := ⟨rfl, rfl, busOk_answers _ _⟩

theorem witness_FlushStopsAtTheFirstFailure :
    (let s := busFail initedState 0
     s.fatal = false ∧ s.inited = true ∧ FirstFail s 0) ∧
    (let s := busFail initedState 1047
     s.fatal = false ∧ s.inited = true ∧ 1047 < 1048 ∧ FirstFail s 1047) :=
  ⟨⟨rfl, rfl, busFail_first _ _⟩, ⟨rfl, rfl, by omega, busFail_first _ _⟩⟩

theorem witness_FlushBeforeInitIsRefused : State.reset.fatal = false ∧ State.reset.inited = false := by decide

theorem witness_RdstReturnsStatus : StateInv { initedState with ioErr := true } :=
  ⟨by decide, by decide, by decide, by simp [initedState, State.reset], by simp [initedState, State.reset]⟩

theorem witness_TransactionCountsAreExact :
    (let s := busOk initedState 1048
     (∃ t, exec .flush s = .next t) ∧ s.fatal = false ∧ s.inited = true ∧ AnswersOk s 1048) ∧
    (let s := busFail initedState 1047
     (∃ t, exec .flush s = .next t) ∧ s.fatal = false ∧ s.inited = true ∧ FirstFail s 1047) ∧
    (let s := busOk State.reset Config.machine.nInit
     (∃ t, exec .init s = .next t) ∧ s.fatal = false ∧ s.inited = false ∧ AnswersOk s Config.machine.nInit) ∧
    (∃ t, exec .rdst State.reset = .next t ∧ Instr.rdst ≠ .init ∧ Instr.rdst ≠ .flush) :=
  ⟨⟨⟨_, rfl⟩, rfl, rfl, busOk_answers _ _⟩, ⟨⟨_, rfl⟩, rfl, rfl, busFail_first _ _⟩,
    ⟨⟨_, rfl⟩, rfl, rfl, busOk_answers _ _⟩, ⟨_, rfl, by decide, by decide⟩⟩

/-- A flush of two transactions, the second of which fails: both kinds of element are there. -/
theorem witness_TraceElementsAreFramed :
    ∃ t, exec .flush (busFail initedState 1) = .next t ∧ t.trace.map Transaction.answer = [.ok, .fail] :=
  ⟨_, rfl, rfl⟩

/-- A flush that answers `OK`, and then a second one. -/
theorem flush_busOk (s : State) (hf : s.fatal = false) (hi : s.inited = true) :
    ∃ t, exec .flush (busOk s 1048) = .next t ∧ t.inited = true ∧ t.fatal = false ∧ t.fb = s.fb ∧
      Answered (busOk s 1048) t 0x0000 := by
  refine ⟨_, exec_of_effect (Effect.flushOk hf hi ?_), hi, hf, rfl, rfl⟩
  rw [flushItems_length]
  exact busOk_answers s 1048

theorem witness_FlushPayloadsAreTheFramebuffer :
    ∃ t t' u, (busOk initedState 1048).inited = true ∧ exec .flush (busOk initedState 1048) = .next t ∧
      Answered (busOk initedState 1048) t 0x0000 ∧ SameFb t t' ∧ t'.inited = true ∧
      exec .flush t' = .next u ∧ Answered t' u 0x0000 := by
  obtain ⟨t, h, hi, hf, _, ha⟩ := flush_busOk initedState rfl rfl
  obtain ⟨u, h', _, _, _, ha'⟩ := flush_busOk t hf hi
  exact ⟨t, busOk t 1048, u, rfl, h, ha, fun _ => rfl, hi, h', ha'⟩

/-! ### The reference sink of 93_implementation_defined G3 (general knowledge), which addresses as assumed -/

/-- Page, column and RAM of the sink. -/
structure Sink where
  page : Nat
  col  : Nat
  ram  : Nat → Nat → Byte

/-- The sink with the candidate bytes of G2: what one acknowledged transaction does. -/
def Sink.receive (d : Sink) (t : Transaction) : Sink :=
  let c := t.payload.toNat
  if t.answer = .fail then d
  else if t.ctl = 0x40 then
    { d with col := d.col + 1, ram := fun p k => if p = d.page ∧ k = d.col then t.payload else d.ram p k }
  else if 0xB0 ≤ c ∧ c < 0xB8 then { d with page := c - 0xB0 }
  else if c / 16 = 0 then { d with col := d.col / 16 * 16 + c % 16 }
  else if c / 16 = 1 then { d with col := c % 8 * 16 + d.col % 16 }
  else d

def sink : DisplayController Sink where
  receive := Sink.receive
  ram := Sink.ram
  page := Sink.page
  col := Sink.col

theorem sink_addresses : sink.Addresses candidate where
  address d p := by
    have hp : p.val < 8 := p.isLt
    have h1 : (176 + p.val) % 256 = 176 + p.val := by omega
    have h2 : 176 ≤ 176 + p.val ∧ 176 + p.val < 184 := by omega
    simp [sink, Sink.receive, transactionOf, itemCtl, itemPayload, candidate, Config.ctlCmd, h1, h2]
  store d b h p c := by
    simp [sink, Sink.receive, transactionOf, itemCtl, itemPayload, Config.ctlData]
    rfl
  advance d b h := by
    simp [sink, Sink.receive, transactionOf, itemCtl, itemPayload, Config.ctlData]

theorem witness_DisplayMirrorsTheFramebuffer :
    sink.Addresses candidate ∧ AnswersOk (busOk initedState 1048) 1048 ∧
    ∃ t, exec .flush (busOk initedState 1048) = .next t ∧ (busOk initedState 1048).inited = true ∧
      Answered (busOk initedState 1048) t 0x0000 := by
  obtain ⟨t, h, _, _, _, ha⟩ := flush_busOk initedState rfl rfl
  exact ⟨sink_addresses, busOk_answers _ _, t, h, rfl, ha⟩

end Sys2Proof.Tests
end

section
/-! PROOFS. The state: what one step can do, who writes which field, the invariant that every step keeps, and
that the two output histories are never read (10_state R20 to R32). -/

namespace Sys2Proof.Machine

/-! ### What one step can do -/

/-- With no input of the host the machine is idle (log 1). -/
theorem step_of_no_input {s : State} (h : s.inputs = []) : step s = .next s := by
  simp only [step, takeInput, h]

/-- An accepted word that decodes to a command is the execution of that command (40_framebuffer R100). -/
theorem step_of_command {s : State} {w : Word} {rest : List HostInput} {i : Instr}
    (h : s.inputs = .word w :: rest) (hd : decode w = .command i) :
    step s = exec i { s with inputs := rest } := by
  simp only [step, takeInput, h, hd]

/-- An accepted illegal word is answered and nothing else (60_exceptions R182). -/
theorem step_of_illegal {s : State} {w : Word} {rest : List HostInput} {why : IllegalWord}
    (h : s.inputs = .word w :: rest) (hd : decode w = .illegal why) :
    step s = .next (answerIllegal { s with inputs := rest }) := by
  simp only [step, takeInput, h, hd]

theorem step_of_reset {s : State} {rest : List HostInput} (h : s.inputs = .reset :: rest) :
    step s = .next (applyReset { s with inputs := rest }) := by
  simp only [step, takeInput, h]

theorem step_of_resetDuring {s : State} {w : Word} {rest : List HostInput}
    (h : s.inputs = .resetDuring w :: rest) :
    step s = .next (applyReset { s with inputs := rest }) := by
  simp only [step, takeInput, h]

/-- Everything a step can do to a state. -/
inductive StepEffect : State → State → Prop where
  | idle {s} : s.inputs = [] → StepEffect s s
  | command {s t w rest i} : s.inputs = .word w :: rest → decode w = .command i →
      Effect i { s with inputs := rest } t → StepEffect s t
  | illegal {s w rest why} : s.inputs = .word w :: rest → decode w = .illegal why →
      StepEffect s (answerIllegal { s with inputs := rest })
  | reset {s rest} : s.inputs = .reset :: rest → StepEffect s (applyReset { s with inputs := rest })
  | resetDuring {s w rest} : s.inputs = .resetDuring w :: rest →
      StepEffect s (applyReset { s with inputs := rest })

/-- The inversion of `step`: a next state is one of the step effects. -/
theorem stepEffect_of_step {s t : State} (h : step s = .next t) : StepEffect s t := by
  match hin : s.inputs with
  | [] =>
    rw [step_of_no_input hin] at h
    cases h
    exact .idle hin
  | .word w :: rest =>
    match hd : decode w with
    | .command i =>
      rw [step_of_command hin hd] at h
      exact .command hin hd (effect_of_exec h)
    | .illegal why =>
      rw [step_of_illegal hin hd] at h
      cases h
      exact .illegal hin hd
  | .reset :: rest =>
    rw [step_of_reset hin] at h
    cases h
    exact .reset hin
  | .resetDuring w :: rest =>
    rw [step_of_resetDuring hin] at h
    cases h
    exact .resetDuring hin

/-! ### Responses and transactions are well made -/

theorem code_responseWord (c : ResponseCode) (d : Byte) :
    (responseWord c d).extractLsb' 12 4 = codeValue c := by
  apply BitVec.eq_of_getLsbD_eq
  intro i hi
  simp only [responseWord, BitVec.getLsbD_extractLsb', BitVec.getLsbD_append]
  rw [if_neg (by omega), if_neg (by omega)]
  simp [hi, show 12 + i - 8 - 4 = i by omega]

theorem reserved_responseWord (c : ResponseCode) (d : Byte) :
    (responseWord c d).extractLsb' 8 4 = 0#4 := by
  apply BitVec.eq_of_getLsbD_eq
  intro i hi
  simp only [responseWord, BitVec.getLsbD_extractLsb', BitVec.getLsbD_append]
  rw [if_neg (by omega), if_pos (by omega)]
  simp

theorem data_responseWord (c : ResponseCode) (d : Byte) : (responseWord c d).extractLsb' 0 8 = d := by
  apply BitVec.eq_of_getLsbD_eq
  intro i hi
  simp only [responseWord, BitVec.getLsbD_extractLsb', BitVec.getLsbD_append]
  rw [if_pos (by omega)]
  simp [hi]

theorem codeValue_le (c : ResponseCode) : codeValue c ≤ 6#4 := by cases c <;> decide

theorem codeValue_eq_zero {c : ResponseCode} : codeValue c = 0#4 ↔ c = .ok := by cases c <;> decide

/-- Data goes only with the code `OK` (60_exceptions R180). -/
theorem responseOk_responseWord {c : ResponseCode} {d : Byte} (h : c = .ok ∨ d = 0#8) :
    ResponseOk (responseWord c d) := by
  rw [ResponseOk, code_responseWord, reserved_responseWord, data_responseWord, Ne, codeValue_eq_zero]
  exact ⟨codeValue_le c, rfl, h.resolve_left⟩

theorem transactionOk_transactionOf (it : BusItem) (a : BusAnswer) :
    TransactionOk (transactionOf Config.machine it a) := by
  cases it with
  | command b => exact ⟨rfl, .inl rfl⟩
  | data b => exact ⟨rfl, .inr rfl⟩

/-- The traffic of a completed sequence of items. -/
theorem transactionOk_of_mem_sent {its : List BusItem} {a : BusAnswer} :
    ∀ t ∈ its.map (fun it => transactionOf Config.machine it a), TransactionOk t := by
  intro t ht
  obtain ⟨it, -, rfl⟩ := List.mem_map.mp ht
  exact transactionOk_transactionOf it a

/-- The traffic of a sequence of items that stops at its first failure. -/
theorem transactionOk_of_mem_aborted {its : List BusItem} {it : BusItem} :
    ∀ t ∈ its.map (fun it => transactionOf Config.machine it .ok) ++
      [transactionOf Config.machine it .fail], TransactionOk t := by
  intro t ht
  rcases List.mem_append.mp ht with ht | ht
  · exact transactionOk_of_mem_sent t ht
  · rw [List.mem_singleton.mp ht]
    exact transactionOk_transactionOf it .fail

/-! ### Each operation keeps the invariant -/

namespace StateInv

variable {s : State} (h : StateInv s)
include h

theorem withInputs (rest : List HostInput) : StateInv { s with inputs := rest } :=
  { h with }

theorem writeFb {m : Memory} (hm : Memory.wf m) : StateInv (writeFb m s) :=
  { h with fbCanonical := hm }

theorem writeStyle (st : Style) : StateInv (writeStyle st s) :=
  { h with }

theorem setInited (hf : s.fatal = false) : StateInv (setInited s) :=
  { h with
    notBoth := by simp [hf]
    ioErrInited := fun _ => rfl }

theorem setFatal (hi : s.inited = false) : StateInv (setFatal s) :=
  { h with notBoth := by simp [hi] }

theorem writeIoErr (b : Bool) (hi : s.inited = true) : StateInv (writeIoErr b s) :=
  { h with ioErrInited := fun _ => hi }

theorem respond {c : ResponseCode} {d : Byte} (hcd : c = .ok ∨ d = 0#8) : StateInv (respond c d s) :=
  { h with
    responsesOk := by
      intro r hr
      rcases List.mem_append.mp hr with hr | hr
      · exact h.responsesOk r hr
      · rw [List.mem_singleton.mp hr]
        exact responseOk_responseWord hcd }

theorem respondOk (d : Byte) : StateInv (Machine.respond .ok d s) := h.respond (.inl rfl)

theorem raiseError (c : ResponseCode) : StateInv (raiseError c s) := h.respond (.inr rfl)

theorem enterFatal (hi : s.inited = false) : StateInv (enterFatal s) := (h.setFatal hi).raiseError _

theorem answerIllegal : StateInv (answerIllegal s) := h.raiseError _

theorem afterTraffic {ts : List Transaction} (hts : ∀ t ∈ ts, TransactionOk t) :
    StateInv (afterTraffic ts s) :=
  { h with
    traceOk := by
      intro t ht
      rcases List.mem_append.mp ht with ht | ht
      · exact h.traceOk t ht
      · exact hts t ht }

end StateInv

/-- A reset makes the invariant hold, whatever held before it. -/
theorem stateInv_applyReset (s : State) : StateInv (applyReset s) where
  fbCanonical := Memory.wf_nil
  notBoth := by simp
  ioErrInited := by simp
  responsesOk := by simp
  traceOk := by simp

/-- Every command keeps the invariant. -/
theorem StateInv.of_effect {i : Instr} {s t : State} (h : StateInv s) (he : Effect i s t) : StateInv t := by
  cases he with
  | fatal => exact h.raiseError _
  | status => exact h.respondOk _
  | byte => exact h.respondOk _
  | draw _ hm => exact (h.writeFb (wf_newFb h.fbCanonical hm)).respondOk _
  | style => exact (h.writeStyle _).respondOk _
  | initAgain => exact h.raiseError _
  | initOk hf => exact ((h.afterTraffic transactionOk_of_mem_sent).setInited hf).respondOk _
  | initFail _ _ hi => exact (h.afterTraffic transactionOk_of_mem_aborted).enterFatal hi
  | flushEarly => exact h.raiseError _
  | flushOk _ hi => exact ((h.afterTraffic transactionOk_of_mem_sent).writeIoErr _ hi).respondOk _
  | flushFail _ _ hi => exact ((h.afterTraffic transactionOk_of_mem_aborted).writeIoErr _ hi).raiseError _

/-- Settles O19: every operation keeps the invariant, so every step effect does. -/
theorem stepKeepsTheInvariant : Obligations.StepKeepsTheInvariant := by
  intro s t h hs
  cases stepEffect_of_step hs with
  | idle => exact h
  | command _ _ he => exact (h.withInputs _).of_effect he
  | illegal => exact (h.withInputs _).answerIllegal
  | reset => exact stateInv_applyReset _
  | resetDuring => exact stateInv_applyReset _

/-! ### Who writes which field -/

/-- The framebuffer is written by the drawing commands only. -/
theorem mnemonic_of_newFb {i : Instr} {s : State} {m : Memory} (h : newFb i s = some m) :
    i.mnemonic ∈ [Mnemonic.CLEAR, .PSET, .PCLR, .DSQ, .DBRD, .DBRDR] := by
  cases i <;> simp [newFb, Instr.mnemonic] at h ⊢

namespace Effect

variable {i : Instr} {s t : State} (h : Effect i s t)
include h

theorem fb_eq (hi : i.mnemonic ∉ [Mnemonic.CLEAR, .PSET, .PCLR, .DSQ, .DBRD, .DBRDR]) : t.fb = s.fb := by
  cases h with
  | draw _ hm => exact absurd (mnemonic_of_newFb hm) hi
  | _ => rfl

theorem style_eq (hi : i ≠ .stnext) : t.style = s.style := by
  cases h with
  | style => exact absurd rfl hi
  | _ => rfl

theorem inited_fatal_eq (hi : i ≠ .init) : t.inited = s.inited ∧ t.fatal = s.fatal := by
  cases h with
  | initOk => exact absurd rfl hi
  | initFail => exact absurd rfl hi
  | _ => exact ⟨rfl, rfl⟩

theorem ioErr_eq (hi : i ≠ .flush) : t.ioErr = s.ioErr := by
  cases h with
  | flushOk => exact absurd rfl hi
  | flushFail => exact absurd rfl hi
  | _ => rfl

theorem sameBus (hi : i ≠ .init) (hf : i ≠ .flush) : SameBus s t := by
  cases h with
  | initOk => exact absurd rfl hi
  | initFail => exact absurd rfl hi
  | flushOk => exact absurd rfl hf
  | flushFail => exact absurd rfl hf
  | _ => exact ⟨rfl, rfl, rfl⟩

theorem sameInputs : SameInputs s t := by
  cases h <;> rfl

end Effect

/-- Settles O21: one frame lemma per field, each by the cases of what a command can do. -/
theorem eachFieldHasItsWriters : Obligations.EachFieldHasItsWriters := by
  intro i s t h
  have he : Effect i s t := effect_of_exec h
  exact ⟨he.fb_eq, he.style_eq, he.inited_fatal_eq, he.ioErr_eq, he.sameBus, he.sameInputs⟩

/-! ### The histories are never read -/

/-- `s` with other output histories (10_state R31). -/
def State.withHistories (s : State) (rs : List ResponseWord) (ts : List Transaction) : State :=
  { s with responses := rs, trace := ts }

/-- The command `i` leads from `s` to `t` by appending to the histories, and with the histories `rs` and `ts`
instead it does the same and appends the same. -/
def AppendsAlike (i : Instr) (s t : State) (rs : List ResponseWord) (ts : List Transaction) : Prop :=
  ∃ (dr : List ResponseWord) (dt : List Transaction),
    t.responses = s.responses ++ dr ∧ t.trace = s.trace ++ dt ∧
    Effect i (s.withHistories rs ts) (t.withHistories (rs ++ dr) (ts ++ dt))

/-- The case of a command that issues no transaction. -/
theorem appendsAlike_of_same_trace {i : Instr} {s t : State} {r : ResponseWord} {rs : List ResponseWord}
    {ts : List Transaction} (hr : t.responses = s.responses ++ [r]) (ht : t.trace = s.trace)
    (he : Effect i (s.withHistories rs ts) (t.withHistories (rs ++ [r]) ts)) : AppendsAlike i s t rs ts :=
  ⟨[r], [], hr, by rw [ht, List.append_nil], by rwa [List.append_nil]⟩

/-- No gate, no answer of the bus and no result of a command looks at a history, so the same effect applies
with other ones. -/
theorem Effect.appendsAlike {i : Instr} {s t : State} (h : Effect i s t) (rs : List ResponseWord)
    (ts : List Transaction) : AppendsAlike i s t rs ts := by
  cases h with
  | fatal hf hi => exact appendsAlike_of_same_trace rfl rfl (.fatal hf hi)
  | status => exact appendsAlike_of_same_trace rfl rfl .status
  | byte hf => exact appendsAlike_of_same_trace rfl rfl (.byte hf)
  | draw hf hm => exact appendsAlike_of_same_trace rfl rfl (.draw hf hm)
  | style hf => exact appendsAlike_of_same_trace rfl rfl (.style hf)
  | initAgain hf hi => exact appendsAlike_of_same_trace rfl rfl (.initAgain hf hi)
  | initOk hf hi ha => exact ⟨_, _, rfl, rfl, .initOk hf hi ha⟩
  | initFail hk hf hi ha => exact ⟨_, _, rfl, rfl, .initFail hk hf hi ha⟩
  | flushEarly hf hi => exact appendsAlike_of_same_trace rfl rfl (.flushEarly hf hi)
  | flushOk hf hi ha => exact ⟨_, _, rfl, rfl, .flushOk hf hi ha⟩
  | flushFail hk hf hi ha => exact ⟨_, _, rfl, rfl, .flushFail (s := s.withHistories rs ts) hk hf hi ha⟩

/-- Settles O22: each effect of a command is the same effect with other histories. -/
theorem historiesAreNeverRead : Obligations.HistoriesAreNeverRead := by
  intro i s t rs ts h
  obtain ⟨dr, dt, hr, ht, he⟩ := (effect_of_exec h).appendsAlike rs ts
  exact ⟨dr, dt, hr, ht, exec_of_effect he⟩

/-! ### Idle and reset -/

/-- Settles O10: the first branch of `step`. -/
theorem noInputLeavesTheMachineIdle : Obligations.NoInputLeavesTheMachineIdle :=
  fun _ h => step_of_no_input h

/-- Settles O11: the fields of the reset state, and a framebuffer with no byte listed. -/
theorem resetLeavesTheStatedValues : Obligations.ResetLeavesTheStatedValues :=
  ⟨fun i => Memory.read_nil i.toNat, rfl, rfl, rfl, rfl, rfl, rfl⟩

/-- Settles O20: the reset state is what a reset makes of itself. -/
theorem resetMeetsTheInvariant : Obligations.ResetMeetsTheInvariant :=
  stateInv_applyReset State.reset

end Sys2Proof.Machine
end

section
/-! PROOFS. Pixel addressing is a bijection, and a pixel outside the display is dropped (20_memory R42, R44). -/

namespace Sys2Proof.Machine

/-! ### The bit fields of an address -/

/-- The index has `y[5:3]` above `x[6:0]` (20_memory R42). -/
theorem pixelIndex_eq_append {x y : Int} (h : InRange x y) :
    pixelIndex x y = (BitVec.ofInt 6 y).extractLsb' 3 3 ++ BitVec.ofInt 7 x := by
  have hi := pixelIndex_toNat h
  simp only [InRange, Config.width_eq, Config.height_eq] at h
  apply BitVec.eq_of_toNat_eq
  rw [BitVec.toNat_append, ← Nat.shiftLeft_add_eq_or_of_lt (BitVec.isLt _), Nat.shiftLeft_eq,
    BitVec.extractLsb'_toNat, Nat.shiftRight_eq_div_pow, BitVec.toNat_ofInt, BitVec.toNat_ofInt]
  omega

/-- The bit position is `y[2:0]`, of every row (20_memory R42). -/
theorem pixelBit_eq_extract (y : Int) :
    pixelBit y = ((BitVec.ofInt 6 y).extractLsb' 0 3).toNat := by
  have hb := pixelBit_cast y
  rw [BitVec.extractLsb'_toNat, Nat.shiftRight_zero, BitVec.toNat_ofInt]
  omega

/-- Every bit of every framebuffer byte holds exactly one in-range pixel (20_memory R42). -/
theorem existsUnique_pixel (i : FbIndex) {b : Nat} (hb : b < 8) :
    ∃! p : Int × Int, InRange p.1 p.2 ∧ pixelIndex p.1 p.2 = i ∧ pixelBit p.2 = b := by
  obtain ⟨hr, hi, hk⟩ := pixel_of_bit i hb
  refine ⟨(_, _), ⟨hr, hi, hk⟩, ?_⟩
  rintro ⟨x, y⟩ ⟨hr', hi', hk'⟩
  exact Prod.ext_iff.mpr (pixel_unique hr' hr (hi'.trans hi.symm) (hk'.trans hk.symm))

/-- Settles O23: the formula and the bit fields agree as numbers; the pixel of a bit is known, and addresses
determine their pixel. -/
theorem pixelAddressingIsABijection : Obligations.PixelAddressingIsABijection := by
  refine ⟨fun x y hx0 hx hy0 hy => ?_, fun i b hb => existsUnique_pixel i hb⟩
  have h : InRange x y := ⟨hx0, hx, hy0, hy⟩
  exact ⟨pixelIndex_toNat h, pixelBit_cast y, pixelIndex_eq_append h, pixelBit_eq_extract y⟩

/-! ### Pixels outside the display -/

theorem not_inRange_iff {x y : Int} : ¬ InRange x y ↔ x < 0 ∨ 128 ≤ x ∨ y < 0 ∨ 64 ≤ y := by
  simp only [InRange, Config.width_eq, Config.height_eq]
  omega

/-- A list of pixels is drawn from its head on (42_shape_renderer, introduction). -/
theorem drawPixels_cons (m : Memory) (x y : Int) (ps : List (Int × Int)) :
    drawPixels m ((x, y) :: ps) = drawPixels (setPixel m x y true) ps := rfl

/-- A drawing command that leaves the framebuffer as it is answers `OK` and does nothing else. -/
theorem exec_of_newFb_same {i : Instr} {s : State} (hf : s.fatal = false) (h : newFb i s = some s.fb) :
    exec i s = .next (answeredWith 0x0000 s) :=
  exec_of_effect (Effect.draw hf h)

/-- Settles O24: SetPixel outside the display is the identity, so a list goes on with its next pixel and the
two commands leave the framebuffer as it is. -/
theorem outOfRangePixelsAreDropped : Obligations.OutOfRangePixelsAreDropped := by
  intro x y hxy
  have hout : ¬ InRange x y := not_inRange_iff.mpr hxy
  have hset (m : Memory) (on : Bool) : setPixel m x y on = m := setPixel_out on hout
  refine ⟨hset, fun m ps => ?_, fun s hf => ⟨?_, ?_⟩⟩
  · rw [drawPixels_cons, hset]
  · exact exec_of_newFb_same hf (congrArg some (hset s.fb true))
  · exact exec_of_newFb_same hf (congrArg some (hset s.fb false))

end Sys2Proof.Machine
end

section
/-! PROOFS. The decoder and the encoder are inverse to each other on the well-formed commands (30_encoding R71 to
R80). -/

namespace Sys2Proof

/-! ### What the decoder checks -/

/-- What the fields of a word are when it carries a command, command by command (30_encoding R71 to R76). -/
inductive Carries (w : Word) : Instr → Prop where
  | clear : opField w = 0x1 → resZ w = 0 → Carries w .clear
  | pclr {x y} : opField w = 0x2 → resHigh w = 0 → selField w = 0 →
      coordOfField (xField w) = x → coordOfField (yField w) = y → Carries w (.pclr x y)
  | pset {x y} : opField w = 0x2 → resHigh w = 0 → selField w = 1 →
      coordOfField (xField w) = x → coordOfField (yField w) = y → Carries w (.pset x y)
  | rdb {idx} : opField w = 0x3 → resI w = 0 → idxField w = idx → Carries w (.rdb idx)
  | dsq {x y} : opField w = 0x4 → resHigh w = 0 → selField w = 0 →
      coordOfField (xField w) = x → coordOfField (yField w) = y → Carries w (.dsq x y)
  | dbrd {sty} : opField w = 0x5 → resHigh w = 0 → selField w = 0 → resS w = 0 → styField w = sty →
      Carries w (.dbrd sty)
  | dbrdr : opField w = 0x5 → resHigh w = 0 → selField w = 1 → resS w = 0 → styField w = 0 → Carries w .dbrdr
  | stnext : opField w = 0x6 → resZ w = 0 → Carries w .stnext
  | init : opField w = 0x7 → resZ w = 0 → Carries w .init
  | flush : opField w = 0x8 → resZ w = 0 → Carries w .flush
  | rdst : opField w = 0x9 → resZ w = 0 → Carries w .rdst

theorem selField_eq_zero {w : Word} (h : selField w ≠ 1) : selField w = 0 :=
  (BitVec.eq_zero_or_eq_one _).resolve_right h

section Formats

variable {w : Word} {i j : Instr}

theorem resZ_eq_zero_of_decodeZ (h : decodeZ w i = .command j) : resZ w = 0 ∧ i = j := by
  unfold decodeZ at h
  split_ifs at h with hr
  exact ⟨hr, Decoded.command.inj h⟩

theorem carries_of_decodePixel (hop : opField w = 0x2) (h : decodePixel w = .command j) : Carries w j := by
  unfold decodePixel at h
  split_ifs at h with hr hs <;> cases h
  · exact .pset hop hr hs rfl rfl
  · exact .pclr hop hr (selField_eq_zero hs) rfl rfl

theorem carries_of_decodeIndex (hop : opField w = 0x3) (h : decodeIndex w = .command j) : Carries w j := by
  unfold decodeIndex at h
  split_ifs at h with hr
  cases h
  exact .rdb hop hr rfl

theorem carries_of_decodeSquare (hop : opField w = 0x4) (h : decodeSquare w = .command j) : Carries w j := by
  unfold decodeSquare at h
  split_ifs at h with hr hs
  cases h
  exact .dsq hop hr (selField_eq_zero hs) rfl rfl

theorem carries_of_decodeBorder (hop : opField w = 0x5) (h : decodeBorder w = .command j) : Carries w j := by
  unfold decodeBorder at h
  split_ifs at h with hr hs ht <;> cases h
  · exact .dbrdr hop hr.1 hs hr.2 ht
  · exact .dbrd hop hr.1 (selField_eq_zero hs) hr.2 rfl

theorem carries_of_decode (h : decode w = .command i) : Carries w i := by
  unfold decode at h
  split_ifs at h with h1 h2 h3 h4 h5 h6 h7 h8 h9
  · obtain ⟨hr, rfl⟩ := resZ_eq_zero_of_decodeZ h
    exact .clear h1 hr
  · exact carries_of_decodePixel h2 h
  · exact carries_of_decodeIndex h3 h
  · exact carries_of_decodeSquare h4 h
  · exact carries_of_decodeBorder h5 h
  · obtain ⟨hr, rfl⟩ := resZ_eq_zero_of_decodeZ h
    exact .stnext h6 hr
  · obtain ⟨hr, rfl⟩ := resZ_eq_zero_of_decodeZ h
    exact .init h7 hr
  · obtain ⟨hr, rfl⟩ := resZ_eq_zero_of_decodeZ h
    exact .flush h8 hr
  · obtain ⟨hr, rfl⟩ := resZ_eq_zero_of_decodeZ h
    exact .rdst h9 hr

theorem decode_of_carries (h : Carries w i) : decode w = .command i := by
  cases h <;> simp [decode, decodeZ, decodePixel, decodeIndex, decodeSquare, decodeBorder, *]

end Formats

/-- The decoder answers a command exactly when the word's fields carry it (30_encoding R80). -/
theorem decode_eq_command_iff {w : Word} {i : Instr} : decode w = .command i ↔ Carries w i :=
  ⟨carries_of_decode, decode_of_carries⟩

/-! ### The word of a command carries it -/

theorem x_of_encodeP (top : Byte) {x y : Int} (h : (coordOk x && coordOk y) = true) :
    coordOfField (xField (encodeP top x y)) = x := by
  rw [xField_encodeP, coordOfField_fieldOfCoord (Bool.and_eq_true_iff.mp h).1]

theorem y_of_encodeP (top : Byte) {x y : Int} (h : (coordOk x && coordOk y) = true) :
    coordOfField (yField (encodeP top x y)) = y := by
  rw [yField_encodeP, coordOfField_fieldOfCoord (Bool.and_eq_true_iff.mp h).2]

/-- The two zero bits above `idx` belong to the reserved field of format I (30_encoding R73). -/
theorem encode_rdb (idx : FbIndex) : encode (.rdb idx) = 0xC0000#22 ++ idx := by
  rw [encode, BitVec.append_assoc']
  rfl

/-- The two zero bits above `sty` belong to the reserved field of format S (30_encoding R74). -/
theorem encode_dbrd (sty : Style) : encode (.dbrd sty) = 0x14000000#30 ++ sty := by
  rw [encode, BitVec.append_assoc']
  rfl

/-- A well-formed command is carried by its word (30_encoding R71 to R75). -/
theorem carries_encode {i : Instr} (h : i.WellFormed) : Carries (encode i) i := by
  cases i with
  | clear => exact .clear rfl rfl
  | pclr x y =>
    exact .pclr (opField_encodeP 0x20 x y) (resHigh_encodeP 0x20 x y) (selField_encodeP 0x20 x y)
      (x_of_encodeP 0x20 h) (y_of_encodeP 0x20 h)
  | pset x y =>
    exact .pset (opField_encodeP 0x21 x y) (resHigh_encodeP 0x21 x y) (selField_encodeP 0x21 x y)
      (x_of_encodeP 0x21 h) (y_of_encodeP 0x21 h)
  | rdb idx =>
    rw [encode_rdb]
    exact .rdb (BitVec.extractLsb'_append_eq_of_le (by decide)) (BitVec.extractLsb'_append_eq_of_le (by decide))
      BitVec.extractLsb'_append_eq_right
  | dsq x y =>
    exact .dsq (opField_encodeP 0x40 x y) (resHigh_encodeP 0x40 x y) (selField_encodeP 0x40 x y)
      (x_of_encodeP 0x40 h) (y_of_encodeP 0x40 h)
  | dbrd sty =>
    rw [encode_dbrd]
    exact .dbrd (BitVec.extractLsb'_append_eq_of_le (by decide)) (BitVec.extractLsb'_append_eq_of_le (by decide))
      (BitVec.extractLsb'_append_eq_of_le (by decide)) (BitVec.extractLsb'_append_eq_of_le (by decide))
      BitVec.extractLsb'_append_eq_right
  | dbrdr => exact .dbrdr rfl rfl rfl rfl rfl
  | stnext => exact .stnext rfl rfl
  | init => exact .init rfl rfl
  | flush => exact .flush rfl rfl
  | rdst => exact .rdst rfl rfl

/-- Settles O2: the fields of a command's word are what the decoder checks and reads. -/
theorem encodedCommandDecodesBack : Obligations.EncodedCommandDecodesBack :=
  fun _ h => decode_of_carries (carries_encode h)

/-- Settles O1: `decode` evaluated on fifteen literal words. -/
theorem sampleWordsDecodeAsWritten : Obligations.SampleWordsDecodeAsWritten := by
  unfold Obligations.SampleWordsDecodeAsWritten
  decide

/-! ### A word that carries a command is that command's word -/

/-- A word is its fields, in format Z (30_encoding R71). -/
theorem append_fieldsZ (w : Word) : opField w ++ resZ w = w :=
  BitVec.extractLsb'_append_extractLsb'

/-- A word is its fields, in format I (30_encoding R73). -/
theorem append_fieldsI (w : Word) : opField w ++ resI w ++ idxField w = w := by
  have h : opField w ++ resI w = w.extractLsb' 10 22 := BitVec.extractLsb'_append_extractLsb'_eq_extractLsb' rfl
  rw [h]
  exact BitVec.extractLsb'_append_extractLsb'

/-- The top byte of a word, in formats P and S (30_encoding R72, R74). -/
theorem append_topFields (w : Word) : opField w ++ resHigh w ++ selField w = w.extractLsb' 24 8 := by
  have h : opField w ++ resHigh w = w.extractLsb' 25 7 := BitVec.extractLsb'_append_extractLsb'_eq_extractLsb' rfl
  rw [h]
  exact BitVec.extractLsb'_append_extractLsb'_eq_extractLsb' rfl

/-- A word is its fields, in format P (30_encoding R72). -/
theorem append_fieldsP (w : Word) : opField w ++ resHigh w ++ selField w ++ yField w ++ xField w = w := by
  have h : w.extractLsb' 24 8 ++ yField w = w.extractLsb' 12 20 :=
    BitVec.extractLsb'_append_extractLsb'_eq_extractLsb' rfl
  rw [append_topFields, h]
  exact BitVec.extractLsb'_append_extractLsb'

/-- A word is its fields, in format S (30_encoding R74). -/
theorem append_fieldsS (w : Word) : opField w ++ resHigh w ++ selField w ++ resS w ++ styField w = w := by
  have h : w.extractLsb' 24 8 ++ resS w = w.extractLsb' 2 30 :=
    BitVec.extractLsb'_append_extractLsb'_eq_extractLsb' rfl
  rw [append_topFields, h]
  exact BitVec.extractLsb'_append_extractLsb'

/-- A format P word is made of its top byte and its two coordinates (30_encoding R72, R75). -/
theorem encodeP_coords {w : Word} {x y : Int} (hx : coordOfField (xField w) = x)
    (hy : coordOfField (yField w) = y) :
    encodeP (opField w ++ resHigh w ++ selField w) x y = w := by
  rw [← hx, ← hy, encodeP, fieldOfCoord_coordOfField, fieldOfCoord_coordOfField, append_fieldsP]

/-- Every pair of coordinates read from fields is well-formed (30_encoding R75). -/
theorem coordsOk_of_fields {w : Word} {x y : Int} (hx : coordOfField (xField w) = x)
    (hy : coordOfField (yField w) = y) : (coordOk x && coordOk y) = true := by
  rw [← hx, ← hy, coordOk_coordOfField, coordOk_coordOfField]
  rfl

theorem wf_of_carries {w : Word} {i : Instr} (h : Carries w i) : i.WellFormed := by
  cases h with
  | pclr _ _ _ hx hy | pset _ _ _ hx hy | dsq _ _ _ hx hy => exact coordsOk_of_fields hx hy
  | _ => rfl

theorem encode_of_carries {w : Word} {i : Instr} (h : Carries w i) : encode i = w := by
  cases h with
  | pclr ho hr hs hx hy | pset ho hr hs hx hy | dsq ho hr hs hx hy =>
    have e := encodeP_coords hx hy
    rw [ho, hr, hs] at e
    exact e
  | rdb ho hr hi =>
    rw [encode_rdb, ← hi]
    have e := append_fieldsI w
    rw [ho, hr] at e
    exact e
  | dbrd ho hr hs hz ht =>
    rw [encode_dbrd, ← ht]
    have e := append_fieldsS w
    rw [ho, hr, hs, hz] at e
    exact e
  | dbrdr ho hr hs hz ht =>
    have e := append_fieldsS w
    rw [ho, hr, hs, hz, ht] at e
    exact e
  | clear ho hr | stnext ho hr | init ho hr | flush ho hr | rdst ho hr =>
    have e := append_fieldsZ w
    rw [ho, hr] at e
    exact e

/-- Settles O3: a word is made of the fields that the decoder checks and reads. -/
theorem decodedWordEncodesBack : Obligations.DecodedWordEncodesBack := by
  intro w i h
  have hc : Carries w i := carries_of_decode h
  exact ⟨wf_of_carries hc, encode_of_carries hc⟩

end Sys2Proof
end

section
/-! PROOFS. The opcode table, the fields and the listed illegal classes say what the decoder says
(30_encoding R75, R78, R79). -/

namespace Sys2Proof.Machine

/-! ### The rows of the opcode table -/

/-- Where a row's mask has ones, a word that selects the row has the bits of its pattern. -/
theorem extractLsb'_of_masked {w mask pattern : Word} (h : w &&& mask = pattern) {start len : Nat}
    (hm : mask.extractLsb' start len = BitVec.allOnes len) :
    w.extractLsb' start len = pattern.extractLsb' start len := by
  rw [← h, BitVec.extractLsb'_and, hm, BitVec.and_allOnes]

/-- A word that selects a row carries a command of that row (30_encoding R78). -/
theorem carries_of_selectedBy {w : Word} {r : OpcodeRow} (hr : r ∈ opcodeTable) (h : r.selectedBy w) :
    ∃ i, Carries w i ∧ i.mnemonic = r.mnemonic := by
  have field {start len : Nat} := @extractLsb'_of_masked w r.mask r.pattern h start len
  simp only [opcodeTable, List.mem_cons, List.not_mem_nil, or_false] at hr
  rcases hr with rfl | rfl | rfl | rfl | rfl | rfl | rfl | rfl | rfl | rfl | rfl
  · exact ⟨.clear, .clear (field rfl) (field rfl), rfl⟩
  · exact ⟨.pclr _ _, .pclr (field rfl) (field rfl) (field rfl) rfl rfl, rfl⟩
  · exact ⟨.pset _ _, .pset (field rfl) (field rfl) (field rfl) rfl rfl, rfl⟩
  · exact ⟨.rdb _, .rdb (field rfl) (field rfl) rfl, rfl⟩
  · exact ⟨.dsq _ _, .dsq (field rfl) (field rfl) (field rfl) rfl rfl, rfl⟩
  · exact ⟨.dbrd _, .dbrd (field rfl) (field rfl) (field rfl) (field rfl) rfl, rfl⟩
  · exact ⟨.dbrdr, .dbrdr (field rfl) (field rfl) (field rfl) (field rfl) (field rfl), rfl⟩
  · exact ⟨.stnext, .stnext (field rfl) (field rfl), rfl⟩
  · exact ⟨.init, .init (field rfl) (field rfl), rfl⟩
  · exact ⟨.flush, .flush (field rfl) (field rfl), rfl⟩
  · exact ⟨.rdst, .rdst (field rfl) (field rfl), rfl⟩

/-- The word of every command selects the row of its mnemonic. -/
theorem encode_selects_row : ∀ i : Instr, Laws.TableRow.Statement i
  | .clear => Laws.TableRow.clear
  | .pclr x y => Laws.TableRow.pclr x y
  | .pset x y => Laws.TableRow.pset x y
  | .rdb idx => Laws.TableRow.rdb idx
  | .dsq x y => Laws.TableRow.dsq x y
  | .dbrd sty => Laws.TableRow.dbrd sty
  | .dbrdr => Laws.TableRow.dbrdr
  | .stnext => Laws.TableRow.stnext
  | .init => Laws.TableRow.init
  | .flush => Laws.TableRow.flush
  | .rdst => Laws.TableRow.rdst

/-- A word that carries a command selects the row of its mnemonic. -/
theorem selectedBy_of_carries {w : Word} {i : Instr} (h : Carries w i) :
    ∃ r ∈ opcodeTable, r.mnemonic = i.mnemonic ∧ r.selectedBy w := by
  have hrow := encode_selects_row i
  rwa [Laws.TableRow.Statement, encode_of_carries h] at hrow

theorem row_of_mnemonic :
    ∀ r ∈ opcodeTable, ∀ r' ∈ opcodeTable, r.mnemonic = r'.mnemonic → r = r' := by decide

/-- A row of the table is selected exactly by the words that decode to its command (30_encoding R78). -/
theorem selectedBy_iff {w : Word} {r : OpcodeRow} (hr : r ∈ opcodeTable) :
    r.selectedBy w ↔ ∃ i, decode w = .command i ∧ i.mnemonic = r.mnemonic := by
  simp only [decode_eq_command_iff]
  refine ⟨carries_of_selectedBy hr, ?_⟩
  rintro ⟨i, hi, hm⟩
  obtain ⟨r', hr', hm', hs⟩ := selectedBy_of_carries hi
  rwa [← row_of_mnemonic r' hr' r hr (hm'.trans hm)]

/-- The rows are disjoint, since a word decodes to one command (30_encoding R78). -/
theorem row_unique {w : Word} {r r' : OpcodeRow} (hr : r ∈ opcodeTable) (hr' : r' ∈ opcodeTable)
    (h : r.selectedBy w) (h' : r'.selectedBy w) : r = r' := by
  obtain ⟨i, hi, hm⟩ := (selectedBy_iff hr).mp h
  obtain ⟨j, hj, hm'⟩ := (selectedBy_iff hr').mp h'
  rw [hi, Decoded.command.injEq] at hj
  subst hj
  exact row_of_mnemonic r hr r' hr' (hm.symm.trans hm')

/-- Settles O4: a row fixes exactly the fields that the decoder checks, and the operands are the others. -/
theorem wordSelectsExactlyItsTableRow : Obligations.WordSelectsExactlyItsTableRow := by
  refine ⟨fun w r hr => selectedBy_iff hr, fun w r hr r' hr' => row_unique hr hr', fun w i h => ?_⟩
  cases carries_of_decode h with
  | pclr _ _ _ hx hy | pset _ _ _ hx hy | dsq _ _ _ hx hy => exact ⟨hx.symm, hy.symm⟩
  | rdb _ _ hi => exact hi.symm
  | dbrd _ _ _ _ ht => exact ht.symm
  | _ => trivial

/-! ### Fields as numbers -/

theorem toNat_extractLsb' (w : Word) (hi lo : Nat) :
    (w.extractLsb' lo (hi + 1 - lo)).toNat = bitsNat w hi lo := by
  rw [BitVec.extractLsb'_toNat, Nat.shiftRight_eq_div_pow]
  rfl

/-- A field read as two's complement, by its value (30_encoding R75). -/
theorem coordOfField_eq (f : CoordField) :
    coordOfField f = if f.toNat < 2048 then (f.toNat : Int) else (f.toNat : Int) - 4096 := by
  rw [coordOfField, BitVec.toInt_eq_toNat_cond]
  split_ifs <;> omega

/-- The operands of a format P command are its two coordinate fields (30_encoding R75). -/
theorem coords_of_carries {w : Word} {x y : Int} :
    Carries w (.pset x y) ∨ Carries w (.pclr x y) ∨ Carries w (.dsq x y) →
      coordOfField (xField w) = x ∧ coordOfField (yField w) = y
  | .inl (.pset _ _ _ hx hy) | .inr (.inl (.pclr _ _ _ hx hy)) | .inr (.inr (.dsq _ _ _ hx hy)) => ⟨hx, hy⟩

/-- Settles O6: the operands are the fields read as two's complement. -/
theorem coordinatesAreSignExtendedFields : Obligations.CoordinatesAreSignExtendedFields := by
  intro w x y h
  simp only [decode_eq_command_iff] at h
  obtain ⟨rfl, rfl⟩ := coords_of_carries h
  rw [← toNat_extractLsb' w 11 0, ← toNat_extractLsb' w 23 12]
  exact ⟨coordOfField_eq _, coordOfField_eq _⟩

/-! ### The listed illegal classes -/

/-- A field has a value exactly when its bits, as a number, do. -/
theorem extractLsb'_eq_iff (w : Word) (hi lo : Nat) {v : BitVec (hi + 1 - lo)} :
    w.extractLsb' lo (hi + 1 - lo) = v ↔ bitsNat w hi lo = v.toNat := by
  rw [← toNat_extractLsb', BitVec.toNat_inj]

theorem opNat_lt (w : Word) : opNat w < 16 := Nat.div_lt_of_lt_mul w.isLt

theorem bitsNat_opcode (w : Word) : bitsNat w 31 28 = opNat w := Nat.mod_eq_of_lt (opNat_lt w)

theorem opField_eq_iff {w : Word} {v : BitVec 4} : opField w = v ↔ opNat w = v.toNat := by
  rw [← bitsNat_opcode]
  exact extractLsb'_eq_iff w 31 28

theorem resZ_eq_zero_iff {w : Word} : resZ w = 0 ↔ bitsNat w 27 0 = 0 := extractLsb'_eq_iff w 27 0
theorem resHigh_eq_zero_iff {w : Word} : resHigh w = 0 ↔ bitsNat w 27 25 = 0 := extractLsb'_eq_iff w 27 25
theorem selField_eq_one_iff {w : Word} : selField w = 1 ↔ bitsNat w 24 24 = 1 := extractLsb'_eq_iff w 24 24
theorem resI_eq_zero_iff {w : Word} : resI w = 0 ↔ bitsNat w 27 10 = 0 := extractLsb'_eq_iff w 27 10
theorem resS_eq_zero_iff {w : Word} : resS w = 0 ↔ bitsNat w 23 2 = 0 := extractLsb'_eq_iff w 23 2
theorem styField_eq_zero_iff {w : Word} : styField w = 0 ↔ bitsNat w 1 0 = 0 := extractLsb'_eq_iff w 1 0

theorem decodeZ_illegal_iff {w : Word} {i : Instr} :
    (∃ why, decodeZ w i = .illegal why) ↔ bitsNat w 27 0 ≠ 0 := by
  simp only [decodeZ, resZ_eq_zero_iff]
  split_ifs with hr <;> simp [hr]

theorem decodePixel_illegal_iff {w : Word} :
    (∃ why, decodePixel w = .illegal why) ↔ bitsNat w 27 25 ≠ 0 := by
  simp only [decodePixel, resHigh_eq_zero_iff]
  split_ifs with hr <;> simp [hr]

theorem decodeIndex_illegal_iff {w : Word} :
    (∃ why, decodeIndex w = .illegal why) ↔ bitsNat w 27 10 ≠ 0 := by
  simp only [decodeIndex, resI_eq_zero_iff]
  split_ifs with hr <;> simp [hr]

theorem decodeSquare_illegal_iff {w : Word} :
    (∃ why, decodeSquare w = .illegal why) ↔ bitsNat w 27 25 ≠ 0 ∨ bitsNat w 24 24 = 1 := by
  simp only [decodeSquare, resHigh_eq_zero_iff, selField_eq_one_iff]
  split_ifs with hr hs
  · simp [hs]
  · simp [hr, hs]
  · simp [hr]

theorem decodeBorder_illegal_iff {w : Word} :
    (∃ why, decodeBorder w = .illegal why) ↔
      (bitsNat w 27 25 ≠ 0 ∨ bitsNat w 23 2 ≠ 0) ∨ (bitsNat w 24 24 = 1 ∧ bitsNat w 1 0 ≠ 0) := by
  simp only [decodeBorder, resHigh_eq_zero_iff, resS_eq_zero_iff, selField_eq_one_iff, styField_eq_zero_iff]
  split_ifs with hr hs ht
  · simp [hr, ht]
  · simp [hs, ht]
  · simp [hr, hs]
  · simp [not_and_or.mp hr]

/-- The words that the decoder calls illegal are the listed classes, opcode by opcode (30_encoding R79). -/
theorem illegalClass_iff_decode {w : Word} : IllegalClass w ↔ ∃ why, decode w = .illegal why := by
  have hop : opNat w < 16 := opNat_lt w
  simp only [IllegalClass, decode, opField_eq_iff, BitVec.ofNat_eq_ofNat, BitVec.toNat_ofNat, Nat.reducePow,
    Nat.reduceMod]
  split_ifs with h1 h2 h3 h4 h5 h6 h7 h8 h9
  · simp [decodeZ_illegal_iff, h1]
  · simp [decodePixel_illegal_iff, h2]
  · simp [decodeIndex_illegal_iff, h3]
  · simp [decodeSquare_illegal_iff, h4]
  · simp [decodeBorder_illegal_iff, h5]
  · simp [decodeZ_illegal_iff, h6]
  · simp [decodeZ_illegal_iff, h7]
  · simp [decodeZ_illegal_iff, h8]
  · simp [decodeZ_illegal_iff, h9]
  · have hc : opNat w = 0x0 ∨ 0xA ≤ opNat w := by omega
    exact iff_of_true (hc.imp_right .inl) ⟨_, rfl⟩

/-- A word is illegal exactly when it matches no row (30_encoding R79). -/
theorem illegalClass_iff_no_row {w : Word} : IllegalClass w ↔ ∀ r ∈ opcodeTable, ¬ r.selectedBy w := by
  rw [illegalClass_iff_decode]
  constructor
  · rintro ⟨why, hd⟩ r hr hs
    obtain ⟨i, hi, -⟩ := (selectedBy_iff hr).mp hs
    rw [hd] at hi
    cases hi
  · intro h
    match hd : decode w with
    | .illegal why => exact ⟨why, rfl⟩
    | .command i =>
      obtain ⟨r, hr, -, hs⟩ := selectedBy_of_carries (carries_of_decode hd)
      exact absurd hs (h r hr)

/-- Settles O5: the classes are what the decoder refuses, and a refused word is answered and nothing else. -/
theorem illegalWordsChangeNothing : Obligations.IllegalWordsChangeNothing := by
  refine ⟨fun w => illegalClass_iff_no_row, fun w => illegalClass_iff_decode, .inl rfl,
    .inr (.inl (by decide)), ?_⟩
  intro s w rest hin hw
  obtain ⟨why, hd⟩ := illegalClass_iff_decode.mp hw
  exact step_of_illegal hin hd

end Sys2Proof.Machine
end

section
/-! PROOFS. The host's side of the encoding: the assembler table, and the saturation of wider integers
(30_encoding R86, R89). -/

namespace Sys2Proof.Machine

/-! ### The assembler table -/

/-- The assembler refuses exactly what no word can carry (30_encoding R86). -/
theorem assemble_eq_none_iff (i : Instr) : assemble i = none ↔ ¬ i.WellFormed := by
  simp [assemble]

theorem assemble_of_wf {i : Instr} (h : i.WellFormed) : assemble i = some (encode i) := if_pos h

/-- Fields put side by side, as numbers. -/
theorem toNat_append_eq_add {m n : Nat} (a : BitVec m) (b : BitVec n) :
    (a ++ b).toNat = a.toNat * 2 ^ n + b.toNat := by
  rw [BitVec.toNat_append, ← Nat.shiftLeft_add_eq_or_of_lt b.isLt, Nat.shiftLeft_eq]

theorem toNat_fieldOfCoord (v : Int) : ((fieldOfCoord v).toNat : Int) = v % 4096 := by
  rw [fieldOfCoord, BitVec.toNat_ofInt]
  omega

/-- The number a format P word is (30_encoding R86). -/
theorem toNat_encodeP (top : Byte) (x y : Int) :
    ((encodeP top x y).toNat : Int) = top.toNat * 0x1000000 + y % 4096 * 4096 + x % 4096 := by
  have hx := toNat_fieldOfCoord x
  have hy := toNat_fieldOfCoord y
  rw [encodeP, toNat_append_eq_add, toNat_append_eq_add]
  omega

theorem append_eq_ofNat {m n : Nat} (a : BitVec m) (b : BitVec n) :
    a ++ b = BitVec.ofNat (m + n) (a.toNat * 2 ^ n + b.toNat) := by
  rw [← toNat_append_eq_add, BitVec.ofNat_toNat, BitVec.setWidth_eq]

/-- The number a format I word is (30_encoding R86). -/
theorem encode_rdb_eq_ofNat (idx : FbIndex) : encode (.rdb idx) = BitVec.ofNat 32 (0x30000000 + idx.toNat) :=
  (encode_rdb idx).trans (append_eq_ofNat _ _)

/-- The number a format S word with `r = 0` is (30_encoding R86). -/
theorem encode_dbrd_eq_ofNat (sty : Style) : encode (.dbrd sty) = BitVec.ofNat 32 (0x50000000 + sty.toNat) :=
  (encode_dbrd sty).trans (append_eq_ofNat _ _)

/-- Settles O7: an assembled word is the encoded one, whose fields side by side are the table's sum. -/
theorem assembledWordsFollowTheTable : Obligations.AssembledWordsFollowTheTable := by
  refine ⟨assemble_eq_none_iff, fun x y hx hy => ?_, fun idx => ?_, fun sty => ?_, rfl, rfl, rfl, rfl, rfl, rfl⟩
  · have hxy : (coordOk x && coordOk y) = true := Bool.and_eq_true_iff.mpr ⟨hx, hy⟩
    exact ⟨_, _, _, assemble_of_wf hxy, toNat_encodeP 0x20 x y, assemble_of_wf hxy, toNat_encodeP 0x21 x y,
      assemble_of_wf hxy, toNat_encodeP 0x40 x y⟩
  · rw [assemble_of_wf rfl, encode_rdb_eq_ofNat]
  · rw [assemble_of_wf rfl, encode_dbrd_eq_ofNat]

/-! ### Saturation -/

theorem saturate_eq (v : Int) : saturate v = if 2047 < v then 2047 else if v < -2048 then -2048 else v := by
  unfold saturate clamp
  split_ifs <;> omega

/-- A pixel write of saturated coordinates is that of the integers: in range they are the same, and out of range
both are dropped (30_encoding R89). -/
theorem setPixel_saturate (m : Memory) (x y : Int) (on : Bool) :
    setPixel m (saturate x) (saturate y) on = setPixel m x y on := by
  by_cases h : InRange x y
  · obtain ⟨hx0, hx, hy0, hy⟩ := h
    simp only [Config.width_eq, Config.height_eq] at hx hy
    rw [saturate_of_small (by omega) (by omega), saturate_of_small (by omega) (by omega)]
  · rw [setPixel_out on h, setPixel_out on (mt (inRange_saturate x y).mp h)]

/-- The clamp of the square's corner absorbs the saturation (30_encoding R89). -/
theorem drawSquare_saturate (m : Memory) (x y : Int) :
    drawSquare m (saturate x) (saturate y) = drawSquare m x y := by
  rw [drawSquare, drawSquare, squareLeft_eq, squareTop_eq, squareLeft_eq, squareTop_eq,
    clamp_saturate (by decide) (by decide), clamp_saturate (by decide) (by decide)]

/-- The drawing commands see their operands only through SetPixel and the square (30_encoding R89). -/
theorem exec_saturate (x y : Int) (s : State) :
    exec (.pset (saturate x) (saturate y)) s = exec (.pset x y) s ∧
    exec (.pclr (saturate x) (saturate y)) s = exec (.pclr x y) s ∧
    exec (.dsq (saturate x) (saturate y)) s = exec (.dsq x y) s := by
  simp only [exec, execPset, execPclr, execDsq, setPixel_saturate, drawSquare_saturate, and_self]

theorem saturated_wf (x y : Int) : (coordOk (saturate x) && coordOk (saturate y)) = true := by
  rw [coordOk_saturate, coordOk_saturate]
  rfl

/-- Settles O8: the commands see a coordinate only through the bounds rule and the clamp, which saturation does
not change; a saturated coordinate fits its field. -/
theorem saturationPreservesEveryOutcome : Obligations.SaturationPreservesEveryOutcome := by
  have decodes (i : Instr) : i.WellFormed → decode (encode i) = .command i := encodedCommandDecodesBack i
  refine ⟨saturate_eq, exec_saturate, fun x y => ⟨?_, ?_, ?_⟩, by decide⟩
  · exact decodes (.pset _ _) (saturated_wf x y)
  · exact decodes (.pclr _ _) (saturated_wf x y)
  · exact decodes (.dsq _ _) (saturated_wf x y)

end Sys2Proof.Machine
end

section
/-! PROOFS. The ports: a step runs the decoded command, every accepted word is answered once, and the
transactions of a command are framed (30_encoding R70, R81 to R84). -/

namespace Sys2Proof.Machine

/-- Settles O9: the command branch of `step`. -/
theorem stepRunsTheDecodedCommand : Obligations.StepRunsTheDecodedCommand :=
  fun _ _ _ _ hin hd _ => step_of_command hin hd

/-! ### One response to every word -/

/-- Every command answers a next state. -/
theorem exec_next (i : Instr) (s : State) : ∃ t, exec i s = .next t := by
  cases i <;> exact ⟨_, rfl⟩

/-- The data of a command's `OK` response (30_encoding R81). -/
def okData (s : State) : Instr → Byte
  | .rdb idx => memRead s.fb idx
  | .rdst => statusByte s
  | _ => 0x00

theorem okData_of_newFb {i : Instr} {s : State} {m : Memory} (h : newFb i s = some m) : okData s i = 0x00 := by
  cases i with
  | rdb | rdst => cases h
  | _ => rfl

/-- A command appends one response, with data only under the code `OK` (30_encoding R81). -/
theorem Effect.responses_eq {i : Instr} {s t : State} (h : Effect i s t) :
    ∃ c, t.responses = s.responses ++ [responseWord c (if codeValue c = 0 then okData s i else 0x00)] := by
  cases h with
  | fatal => exact ⟨.errFatal, rfl⟩
  | draw _ hm => exact ⟨.ok, by rw [okData_of_newFb hm]; rfl⟩
  | initAgain => exact ⟨.errState, rfl⟩
  | initFail => exact ⟨.errInitFail, rfl⟩
  | flushEarly => exact ⟨.errNoInit, rfl⟩
  | flushFail => exact ⟨.errIo, rfl⟩
  | _ => exact ⟨.ok, rfl⟩

/-- Settles O15: one response in every effect of a command, and one for an illegal word. -/
theorem everyWordIsAnsweredOnce : Obligations.EveryWordIsAnsweredOnce := by
  constructor
  · intro i s
    obtain ⟨t, ht⟩ := exec_next i s
    obtain ⟨c, hr⟩ := (effect_of_exec ht).responses_eq
    refine ⟨t, codeValue c, codeValue_le c, ht, hr.trans ?_⟩
    cases i <;> rfl
  · intro s t w rest hin h
    match hd : decode w with
    | .command i =>
      rw [step_of_command hin hd] at h
      have he := effect_of_exec h
      obtain ⟨c, hr⟩ := he.responses_eq
      exact ⟨he.sameInputs, _, hr⟩
    | .illegal why =>
      rw [step_of_illegal hin hd] at h
      cases h
      exact ⟨rfl, _, rfl⟩

/-! ### The transactions of a command -/

/-- What is said of the transactions that the command `i` adds to the bus trace: they are well made, data comes
from `FLUSH` only, and none but the last fails (30_encoding R83, R84; 41_display_driver R130). -/
structure Framed (i : Instr) (new : List Transaction) : Prop where
  wellMade      : ∀ x ∈ new, TransactionOk x
  dataFromFlush : ∀ x ∈ new, x.ctl = 0x40 → i = .flush
  failsOnlyLast : ∀ (n : Nat) (x : Transaction), new[n]? = some x → x.answer = .fail → n + 1 = new.length

theorem framed_nil (i : Instr) : Framed i [] := ⟨by simp, by simp, by simp⟩

theorem answer_of_mem_sent {C : Config} {its : List BusItem} {x : Transaction}
    (hx : x ∈ its.map fun it => transactionOf C it .ok) : x.answer = .ok := by
  obtain ⟨it, -, rfl⟩ := List.mem_map.mp hx
  rfl

section Items

variable {i : Instr} {its : List BusItem} (h : ∀ it ∈ its, itemCtl it = 0x40 → i = .flush)
include h

/-- The traffic of items that are all acknowledged. -/
theorem framed_sent : Framed i (its.map fun it => transactionOf Config.machine it .ok) where
  wellMade := transactionOk_of_mem_sent
  dataFromFlush x hx hc := by
    obtain ⟨it, hit, rfl⟩ := List.mem_map.mp hx
    exact h it hit hc
  failsOnlyLast n x hx hf := by
    rw [answer_of_mem_sent (List.mem_of_getElem? hx)] at hf
    cases hf

/-- The traffic of items that stops at its first failure. -/
theorem framed_aborted {k : Nat} (hk : k < its.length) :
    Framed i ((its.take k).map (fun it => transactionOf Config.machine it .ok) ++
      [transactionOf Config.machine its[k] .fail]) := by
  refine ⟨transactionOk_of_mem_aborted, fun x hx hc => ?_, fun n x hx hf => ?_⟩
  · rcases List.mem_append.mp hx with hx | hx
    · obtain ⟨it, hit, rfl⟩ := List.mem_map.mp hx
      exact h it (List.mem_of_mem_take hit) hc
    · rw [List.mem_singleton.mp hx] at hc
      exact h _ (List.getElem_mem hk) hc
  · by_contra hlast
    have hn := (List.getElem?_eq_some_iff.mp hx).1
    rw [List.length_append, List.length_singleton] at hn hlast
    rw [List.getElem?_append_left (by omega)] at hx
    rw [answer_of_mem_sent (List.mem_of_getElem? hx)] at hf
    cases hf

end Items

/-- `INIT` sends commands only (41_display_driver R123). -/
theorem itemCtl_of_mem_initItems {C : Config} {it : BusItem} (h : it ∈ initItems C) : itemCtl it = 0x00 := by
  obtain ⟨b, -, rfl⟩ := List.mem_map.mp h
  rfl

theorem no_data_in_initItems {C : Config} {i : Instr} : ∀ it ∈ initItems C, itemCtl it = 0x40 → i = .flush := by
  intro it hit hc
  rw [itemCtl_of_mem_initItems hit] at hc
  cases hc

theorem Effect.trace_framed {i : Instr} {s t : State} (h : Effect i s t) :
    ∃ new, t.trace = s.trace ++ new ∧ Framed i new := by
  cases h with
  | initOk => exact ⟨_, rfl, framed_sent no_data_in_initItems⟩
  | initFail hk => exact ⟨_, rfl, framed_aborted no_data_in_initItems hk⟩
  | flushOk => exact ⟨_, rfl, framed_sent fun _ _ _ => rfl⟩
  | flushFail hk => exact ⟨_, rfl, framed_aborted (fun _ _ _ => rfl) hk⟩
  | _ => exact ⟨[], (List.append_nil _).symm, framed_nil _⟩

/-- Settles O45: the traffic of the two long commands is framed, and no other command has any. -/
theorem traceElementsAreFramed : Obligations.TraceElementsAreFramed := by
  intro i s t h
  obtain ⟨new, hnew, hf⟩ := (effect_of_exec h).trace_framed
  refine ⟨new, hnew, fun x hx => ?_, hf.failsOnlyLast⟩
  obtain ⟨haddr, hctl⟩ := hf.wellMade x hx
  exact ⟨haddr, hctl, hf.dataFromFlush x hx⟩

end Sys2Proof.Machine
end

section
/-! PROOFS. The framebuffer commands: what each leaves in every byte, its frame, and its refusal in the FATAL state
(40_framebuffer R100 to R104). -/

namespace Sys2Proof.Machine

/-! ### What the commands share -/

/-- The FATAL gate of every command but `RDST` (40_framebuffer R100). -/
theorem exec_of_fatal {i : Instr} {s : State} (hf : s.fatal = true) (hi : i ≠ .rdst) :
    exec i s = .next (answeredWith 0x2000 s) :=
  exec_of_effect (Effect.fatal hf hi)

/-- A drawing command writes the framebuffer, answers `OK`, and leaves everything else as it is. -/
theorem exec_of_newFb {i : Instr} {s : State} {m : Memory} (hf : s.fatal = false) (hm : newFb i s = some m) :
    ∃ t, exec i s = .next t ∧ t.fb = m ∧
      SameStatus s t ∧ SameBus s t ∧ SameInputs s t ∧ Answered s t 0x0000 :=
  ⟨_, exec_of_effect (Effect.draw hf hm), rfl, ⟨rfl, rfl, rfl, rfl⟩, ⟨rfl, rfl, rfl⟩, rfl, rfl⟩

/-- A command that is one SetPixel: the pixel's byte is merged with the one-hot mask, no other byte changes, and out
of range no byte does (20_memory R44, R45). -/
theorem exec_of_setPixel {i : Instr} {x y : Int} {on : Bool} {s : State} (hf : s.fatal = false)
    (hm : newFb i s = some (setPixel s.fb x y on)) :
    ∃ t, exec i s = .next t ∧
      (InRange x y → ∀ j : FbIndex, memRead t.fb j =
        if j = pixelIndex x y then mergePixel (memRead s.fb j) (pixelMask y) on else memRead s.fb j) ∧
      (¬ InRange x y → t.fb = s.fb) ∧
      SameStatus s t ∧ SameBus s t ∧ SameInputs s t ∧ Answered s t 0x0000 := by
  obtain ⟨t, ht, hfb, hframe⟩ := exec_of_newFb hf hm
  refine ⟨t, ht, fun h j => ?_, fun h => ?_, hframe⟩
  · rw [hfb, memRead_setPixel on h]
  · rw [hfb, setPixel_out on h]

/-- Two coordinate fields under a top byte are the format P word of the integers they hold (30_encoding R75). -/
theorem encodeP_toInt (top : Byte) (xf yf : CoordField) : encodeP top xf.toInt yf.toInt = top ++ yf ++ xf := by
  rw [encodeP, ← coordOfField, ← coordOfField, fieldOfCoord_coordOfField, fieldOfCoord_coordOfField]

/-- The integers that two coordinate fields hold are well-formed operands (30_encoding R75). -/
theorem coordsOk_toInt (xf yf : CoordField) : (coordOk xf.toInt && coordOk yf.toInt) = true :=
  Bool.and_eq_true_iff.mpr ⟨coordOk_coordOfField xf, coordOk_coordOfField yf⟩

/-- A format P word whose fields hold a command's coordinates decodes to that command (30_encoding R72, R75). -/
theorem decode_formatP {i : Instr} {top : Byte} {xf yf : CoordField} (hw : i.WellFormed)
    (he : encode i = encodeP top xf.toInt yf.toInt) : decode (top ++ yf ++ xf) = .command i := by
  rw [← encodeP_toInt, ← he]
  exact encodedCommandDecodesBack i hw

/-! ### CLEAR -/

theorem getPixel_nil (x y : Int) : getPixel [] x y = false := by
  by_cases h : InRange x y
  · rw [getPixel_in h, memRead_nil]
    exact BitVec.getLsbD_zero
  · exact getPixel_out h

/-- Settles O25: the cleared framebuffer lists no byte, so every byte and every pixel reads as zero. -/
theorem clearTurnsEveryPixelOff : Obligations.ClearTurnsEveryPixelOff := by
  refine ⟨encodedCommandDecodesBack .clear rfl, fun s hf => ?_, fun s hf => exec_of_fatal hf nofun⟩
  obtain ⟨t, ht, hfb, hframe⟩ := exec_of_newFb (i := .clear) hf rfl
  refine ⟨t, ht, fun i => ?_, fun x y _ => ?_, hframe⟩
  · rw [hfb]
    exact memRead_nil i
  · rw [hfb]
    exact getPixel_nil x y

/-! ### PSET and PCLR -/

/-- Settles O26: `PSET` is SetPixel with the value on, whose merge is the OR. -/
theorem psetTurnsOnePixelOn : Obligations.PsetTurnsOnePixelOn :=
  ⟨fun xf yf => decode_formatP (coordsOk_toInt xf yf) rfl,
    fun _ _ _ hf => exec_of_setPixel (on := true) hf rfl,
    fun _ _ _ hf => exec_of_fatal hf nofun⟩

/-- A pixel set and then cleared is off, and every other pixel is as it was (40_framebuffer R103). -/
theorem getPixel_set_clear {m : Memory} {x y : Int} (h : InRange x y) (x' y' : Int) :
    getPixel (setPixel (setPixel m x y true) x y false) x' y' =
      if x' = x ∧ y' = y then false else getPixel m x' y' := by
  rw [getPixel_setPixel false h, getPixel_setPixel true h]
  split_ifs <;> rfl

/-- Setting and then clearing a pixel that was off restores every byte (40_framebuffer R103). -/
theorem memRead_set_clear_of_off {m : Memory} {x y : Int} (h : InRange x y) (hoff : getPixel m x y = false)
    (i : FbIndex) : memRead (setPixel (setPixel m x y true) x y false) i = memRead m i := by
  refine memRead_ext (fun x' y' _ => ?_) i
  rw [getPixel_set_clear h]
  split_ifs with hxy
  · rw [hxy.1, hxy.2, hoff]
  · rfl

/-- What `PSET` and then `PCLR` of one pixel make of the framebuffer. -/
theorem exec_pset_pclr (x y : Int) {s : State} (hf : s.fatal = false) :
    ∃ t u, exec (.pset x y) s = .next t ∧ exec (.pclr x y) t = .next u ∧
      t.fb = setPixel s.fb x y true ∧ u.fb = setPixel (setPixel s.fb x y true) x y false := by
  obtain ⟨t, ht, htfb, ⟨-, -, htf, -⟩, -⟩ := exec_of_newFb (i := .pset x y) hf rfl
  obtain ⟨u, hu, hufb, -⟩ := exec_of_newFb (i := .pclr x y) (htf.trans hf) rfl
  exact ⟨t, u, ht, hu, htfb, by rw [hufb, htfb]⟩

/-- Settles O27: `PCLR` is SetPixel with the value off, whose merge is the AND; after a `PSET` the pixels are known
one by one, and they determine the bytes. -/
theorem pclrTurnsOnePixelOff : Obligations.PclrTurnsOnePixelOff := by
  refine ⟨fun xf yf => decode_formatP (coordsOk_toInt xf yf) rfl,
    fun _ _ _ hf => exec_of_setPixel (on := false) hf rfl,
    fun _ _ _ hf => exec_of_fatal hf nofun, fun x y s h hf => ?_⟩
  obtain ⟨t, u, ht, hu, htfb, hufb⟩ := exec_pset_pclr x y hf
  refine ⟨t, u, ht, hu, ?_, ?_, fun x' y' _ hne => ?_, fun hoff i => ?_⟩
  · rw [htfb, getPixel_setPixel true h, if_pos ⟨rfl, rfl⟩]
  · rw [hufb, getPixel_set_clear h, if_pos ⟨rfl, rfl⟩]
  · have hother : ¬ (x' = x ∧ y' = y) := fun hxy => hne (Prod.ext hxy.1 hxy.2)
    rw [htfb, hufb, getPixel_setPixel true h, getPixel_set_clear h, if_neg hother, if_neg hother]
    exact ⟨rfl, rfl⟩
  · rw [hufb, memRead_set_clear_of_off h hoff]

/-! ### RDB -/

/-- The response to a read: the code `OK` and the reserved bits are a zero byte (30_encoding R81). -/
theorem responseWord_ok (d : Byte) : responseWord .ok d = 0x00#8 ++ d := rfl

/-- Settles O28: `RDB` answers the byte, whose bits are the pixels of its column. -/
theorem rdbReturnsTheByte : Obligations.RdbReturnsTheByte := by
  refine ⟨fun idx => encodedCommandDecodesBack (.rdb idx) rfl, fun idx s hf => ?_,
    fun m idx b hb => memRead_getLsbD m idx hb, fun idx s hf => exec_of_fatal hf nofun⟩
  rw [exec_of_effect (Effect.byte hf), respond, responseWord_ok, answeredWith]

end Sys2Proof.Machine
end

section
/-! PROOFS. The display driver: what INIT and FLUSH send, where they stop, what they refuse, the STATUS byte, the
counts of transactions, and the mirror of the framebuffer in the display (41_display_driver R122 to R133). -/

namespace Sys2Proof.Machine

/-! ### Traffic by position -/

/-- The traffic of the first `k` items, when transaction `n` is known by its number. -/
theorem map_take_eq_map_range {C : Config} {its : List BusItem} {f : Nat → Transaction} {k : Nat}
    (hk : k ≤ its.length) (h : ∀ n (hn : n < its.length), transactionOf C its[n] .ok = f n) :
    (its.take k).map (fun it => transactionOf C it .ok) = (List.range k).map f := by
  refine List.ext_getElem (by simpa using hk) fun n hn _ => ?_
  have hn' : n < its.length := by simp at hn; omega
  simpa using h n hn'

theorem map_initItems_take {C : Config} {k : Nat} (hk : k ≤ C.nInit) :
    ((initItems C).take k).map (fun it => transactionOf C it .ok) =
      (List.range k).map fun n => initTransaction C n .ok :=
  map_take_eq_map_range (by rwa [initItems_length]) fun _ hn => transactionOf_initItems C .ok hn

theorem map_initItems (C : Config) :
    (initItems C).map (fun it => transactionOf C it .ok) =
      (List.range C.nInit).map fun n => initTransaction C n .ok := by
  rw [← map_initItems_take (Nat.le_refl _), List.take_of_length_le (initItems_length C).le]

theorem map_flushItems_take (C : Config) (m : Memory) {k : Nat} (hk : k ≤ 1048) :
    ((flushItems C m).take k).map (fun it => transactionOf C it .ok) =
      (List.range k).map fun n => flushTransaction C m n .ok :=
  map_take_eq_map_range (by rwa [flushItems_length]) fun _ hn => transactionOf_flushItems C m .ok hn

theorem map_flushItems (C : Config) (m : Memory) :
    (flushItems C m).map (fun it => transactionOf C it .ok) =
      (List.range 1048).map fun n => flushTransaction C m n .ok := by
  rw [← map_flushItems_take C m (Nat.le_refl _), List.take_of_length_le (flushItems_length C m).le]

/-! ### What INIT and FLUSH make of a state, with their traffic by position -/

section Traffic

variable {s : State} (hf : s.fatal = false)
include hf

/-- `INIT` with every transaction acknowledged (41_display_driver R123, R124). -/
theorem exec_init_ok (hi : s.inited = false) (ha : AnswersOk s Config.machine.nInit) :
    exec .init s = .next (respond .ok 0x00 (setInited (afterTraffic
      ((List.range Config.machine.nInit).map fun n => initTransaction Config.machine n .ok) s))) := by
  rw [← map_initItems]
  exact exec_of_effect (.initOk hf hi (by rwa [initItems_length]))

/-- `INIT` with transaction `k` the first that fails (41_display_driver R124, R130). -/
theorem exec_init_fail (hi : s.inited = false) {k : Nat} (hk : k < Config.machine.nInit) (ha : FirstFail s k) :
    exec .init s = .next (enterFatal (afterTraffic
      ((List.range k).map (fun n => initTransaction Config.machine n .ok) ++
        [initTransaction Config.machine k .fail]) s)) := by
  have hk' : k < (initItems Config.machine).length := by rwa [initItems_length]
  rw [← map_initItems_take hk.le, ← transactionOf_initItems Config.machine .fail hk']
  exact exec_of_effect (.initFail hk' hf hi ha)

/-- `FLUSH` with every transaction acknowledged (41_display_driver R127, R128). -/
theorem exec_flush_ok (hi : s.inited = true) (ha : AnswersOk s 1048) :
    exec .flush s = .next (respond .ok 0x00 (writeIoErr false (afterTraffic
      ((List.range 1048).map fun n => flushTransaction Config.machine s.fb n .ok) s))) := by
  rw [← map_flushItems]
  exact exec_of_effect (.flushOk hf hi (by rwa [flushItems_length]))

/-- `FLUSH` with transaction `k` the first that fails (41_display_driver R127, R130). -/
theorem exec_flush_fail (hi : s.inited = true) {k : Nat} (hk : k < 1048) (ha : FirstFail s k) :
    exec .flush s = .next (raiseError .errIo (writeIoErr true (afterTraffic
      ((List.range k).map (fun n => flushTransaction Config.machine s.fb n .ok) ++
        [flushTransaction Config.machine s.fb k .fail]) s))) := by
  have hk' : k < (flushItems Config.machine s.fb).length := by rwa [flushItems_length]
  rw [← map_flushItems_take _ _ hk.le, ← transactionOf_flushItems Config.machine s.fb .fail hk']
  exact exec_of_effect (.flushFail hk' hf hi ha)

end Traffic

/-- Settles O37: every item of the initialisation is sent, and item `n` is `INIT_SEQ[n]`. -/
theorem initSendsTheSequence : Obligations.InitSendsTheSequence :=
  ⟨encodedCommandDecodesBack .init rfl, fun _ hf hi ha =>
    ⟨_, exec_init_ok hf hi ha, rfl, rfl, hf, rfl, rfl, rfl, rfl, rfl⟩⟩

/-- Settles O38: the items before the first failure are acknowledged, its own is not, and none follows. -/
theorem initStopsAtTheFirstFailure : Obligations.InitStopsAtTheFirstFailure :=
  fun _ _ hf hi hk ha =>
    ⟨_, exec_init_fail hf hi hk ha, (List.append_assoc _ _ _).symm, rfl, hi, rfl, rfl, rfl, rfl, rfl⟩

/-- Settles O40: every item of the flush is sent, and item `n` is the one of the position rule. -/
theorem flushSendsTheWholeFramebuffer : Obligations.FlushSendsTheWholeFramebuffer :=
  ⟨encodedCommandDecodesBack .flush rfl, fun _ hf hi ha =>
    ⟨_, exec_flush_ok hf hi ha, rfl, rfl, hi, hf, rfl, rfl, rfl, rfl⟩⟩

/-- Settles O41: the items before the first failure are acknowledged, its own is not, and none follows. -/
theorem flushStopsAtTheFirstFailure : Obligations.FlushStopsAtTheFirstFailure :=
  fun _ _ hf hi hk ha =>
    ⟨_, exec_flush_fail hf hi hk ha, (List.append_assoc _ _ _).symm, rfl, hi, hf, rfl, rfl, rfl, rfl⟩

/-! ### Refusals and the STATUS byte -/

/-- Settles O39: the second gate of `INIT`. -/
theorem secondInitIsRefused : Obligations.SecondInitIsRefused :=
  fun _ hf hi => exec_of_effect (.initAgain hf hi)

/-- Settles O42: the second gate of `FLUSH`. -/
theorem flushBeforeInitIsRefused : Obligations.FlushBeforeInitIsRefused :=
  fun _ hf hi => exec_of_effect (.flushEarly hf hi)

/-- The layout `{0b000, IOERR, FATAL, INITED, STYLE[1:0]}`, field by field (10_state R24). -/
theorem statusLayout_fields : ∀ (ioErr fatal inited : Bool) (st : Style),
    let d : Byte := 0#3 ++ BitVec.ofBool ioErr ++ BitVec.ofBool fatal ++ BitVec.ofBool inited ++ st
    d.extractLsb' 0 2 = st ∧ d.getLsbD 2 = inited ∧ d.getLsbD 3 = fatal ∧ d.getLsbD 4 = ioErr ∧
      d.extractLsb' 5 3 = 0#3 := by
  decide

/-- Settles O43: the data byte is the STATUS byte, and the impossible values are those the invariant excludes. -/
theorem rdstReturnsStatus : Obligations.RdstReturnsStatus := by
  refine ⟨encodedCommandDecodesBack .rdst rfl, fun s => ?_⟩
  obtain ⟨hstyle, hinited, hfatal, hioErr, hzero⟩ := statusLayout_fields s.ioErr s.fatal s.inited s.style
  refine ⟨statusByte s, exec_of_effect .status, hstyle, hinited, hfatal, hioErr, hzero, fun h => ?_⟩
  rw [statusByte, hinited, hfatal, hioErr]
  exact ⟨h.notBoth, h.ioErrInited⟩

/-! ### The items of a flush by kind -/

/-- The acknowledged transactions with a given control byte are those of the items with that control byte. -/
theorem filter_ctl_map (C : Config) (its : List BusItem) (c : Byte) :
    (its.map fun it => transactionOf C it .ok).filter (fun x => x.ctl = c) =
      (its.filter fun it => itemCtl it = c).map fun it => transactionOf C it .ok :=
  List.filter_map

/-- A page's items with control byte 0x00 are its three addressing commands. -/
theorem filter_command_pageItems (C : Config) (m : Memory) (p : Fin 8) :
    (pageItems C m p).filter (fun it => itemCtl it = 0x00) =
      [.command (C.cmdPage p), .command C.cmdColLo, .command C.cmdColHi] := by
  have hdata : ((List.range Config.width).map fun c => BusItem.data (memRead m (pageIndex p c))).filter
      (fun it => itemCtl it = 0x00) = [] := by
    simp [itemCtl, Config.ctlData]
  rw [pageItems, List.filter_append, hdata, List.append_nil]
  rfl

/-- A page's items with control byte 0x40 are its bytes in column order. -/
theorem filter_data_pageItems (C : Config) (m : Memory) (p : Fin 8) :
    (pageItems C m p).filter (fun it => itemCtl it = 0x40) =
      (List.range Config.width).map fun c => .data (memRead m (pageIndex p c)) := by
  rw [pageItems, List.filter_append]
  exact List.filter_eq_self.mpr (by simp [itemCtl, Config.ctlData])

/-- Rows of `n` numbers each, one after the other, are the numbers in order. -/
theorem flatMap_finRange_rows (n N : Nat) :
    (List.finRange N).flatMap (fun (p : Fin N) => (List.range n).map fun c => n * p.val + c) = List.range (n * N) := by
  induction N with
  | zero => simp
  | succ N ih =>
    rw [List.finRange_succ_last, List.flatMap_append, List.flatMap_map, Nat.mul_succ, List.range_add]
    simp [ih]

/-- The data items of a flush are `FB[0]` to `FB[1023]` in order (41_display_driver R129). -/
theorem filter_data_flushItems (C : Config) (m : Memory) :
    (flushItems C m).filter (fun it => itemCtl it = 0x40) =
      (List.range 1024).map fun n => .data (memRead m (BitVec.ofNat 10 n)) := by
  rw [← flatMap_finRange_rows 128 8, List.map_flatMap, flushItems, List.filter_flatMap]
  simp only [filter_data_pageItems, List.map_map]
  rfl

theorem filter_command_flushItems_length (C : Config) (m : Memory) :
    ((flushItems C m).filter fun it => itemCtl it = 0x00).length = 24 := by
  simp only [flushItems, List.filter_flatMap, filter_command_pageItems, List.length_flatMap]
  rfl

/-- Settles O44: the traffic is known by position, so its length is known; a flush's split by control byte is that of
its items. -/
theorem transactionCountsAreExact : Obligations.TransactionCountsAreExact := by
  refine ⟨fun s t h hf hi ha => ?_, fun s t k h hf hi hk ha => ?_, fun s t h hf hi ha => ?_,
    fun i s t h hi hfl => ?_⟩
  · rw [exec_flush_ok hf hi ha, ← map_flushItems] at h
    cases h
    refine ⟨_, rfl, ?_, ?_, ?_⟩
    · rw [List.length_map, flushItems_length]
    · rw [filter_ctl_map, List.length_map, filter_command_flushItems_length]
    · rw [filter_ctl_map, List.length_map, filter_data_flushItems, List.length_map, List.length_range]
  · rw [exec_flush_fail hf hi hk ha] at h
    cases h
    simp
  · rw [exec_init_ok hf hi ha] at h
    cases h
    simp
  · exact ((effect_of_exec h).sameBus hi hfl).1

/-! ### A flush that answered OK -/

/-- An unfailed flush adds the traffic of its items, for whatever parameters (41_display_driver R128). -/
theorem flushBody_trace_ok {C : Config} {s : State} (h : AnswersOk s 1048) :
    (flushBody C s).trace = s.trace ++ (flushItems C s.fb).map fun it => transactionOf C it .ok := by
  rw [flushBody_ok h]
  rfl

/-- A flush is answered `OK` only when it met no failure, and then all its items were sent (41_display_driver R127). -/
theorem effect_of_flush_answered {s t : State} (hi : s.inited = true) (h : exec .flush s = .next t)
    (hr : Answered s t 0x0000) :
    AnswersOk s 1048 ∧ t.fb = s.fb ∧
      t.trace = s.trace ++ (flushItems Config.machine s.fb).map fun it => transactionOf Config.machine it .ok := by
  cases effect_of_exec h with
  | fatal => exact absurd (List.append_cancel_left hr) (by decide)
  | draw _ hm => cases hm
  | flushEarly _ hi' => rw [hi] at hi'; cases hi'
  | flushOk _ _ ha => exact ⟨by rwa [flushItems_length] at ha, rfl, rfl⟩
  | flushFail => exact absurd (List.append_cancel_left hr) (by decide)

/-- A flush reads the framebuffer's bytes and nothing else of it. -/
theorem flushItems_congr {C : Config} {m m' : Memory} (h : ∀ i, memRead m' i = memRead m i) :
    flushItems C m' = flushItems C m := by
  have hpage : pageItems C m' = pageItems C m := funext fun p => by simp only [pageItems, h]
  rw [flushItems, flushItems, hpage]

/-- Settles O46: the payloads are those of the data items, and the items depend on the bytes alone. -/
theorem flushPayloadsAreTheFramebuffer : Obligations.FlushPayloadsAreTheFramebuffer := by
  intro s t hi h hr
  obtain ⟨-, hfb, htrace⟩ := effect_of_flush_answered hi h hr
  refine ⟨hfb, _, htrace, ?_, fun t' u hsame hi' h' hr' => ?_⟩
  · rw [filter_ctl_map, filter_data_flushItems, List.map_map, List.map_map]
    rfl
  · obtain ⟨-, -, hu⟩ := effect_of_flush_answered hi' h' hr'
    rw [hu, flushItems_congr hsame, hfb]

/-! ### The mirror in the display -/

/-- What a controller is after receiving the acknowledged transactions of `its`. -/
def DisplayController.receiveItems {σ : Type} (D : DisplayController σ) (C : Config) (d : σ)
    (its : List BusItem) : σ :=
  (its.map fun it => transactionOf C it .ok).foldl D.receive d

/-- The page `q` of the controller's display RAM holds the bytes of the framebuffer's page `q`. -/
def DisplayController.Shows {σ : Type} (D : DisplayController σ) (m : Memory) (q : Nat) (d : σ) : Prop :=
  ∀ c < 128, D.ram d q c = memRead m (pageIndex q c)

/-- The controller `d` has received the bytes `b 0` to `b (k - 1)` of page `p` on top of the display RAM of `d₀`, and
its pointers are at the next one, unless the page is complete. -/
structure DisplayController.Received {σ : Type} (D : DisplayController σ) (d₀ : σ) (p : Nat) (b : Nat → Byte)
    (k : Nat) (d : σ) : Prop where
  pointers : k < 128 → D.page d = p ∧ D.col d = k
  ram      : ∀ q c, D.ram d q c = if q = p ∧ c < k then b c else D.ram d₀ q c

namespace DisplayController

variable {σ : Type} {D : DisplayController σ} {C : Config}

theorem receiveItems_append (d : σ) (its its' : List BusItem) :
    D.receiveItems C d (its ++ its') = D.receiveItems C (D.receiveItems C d its) its' := by
  simp only [receiveItems, List.map_append, List.foldl_append]

section Addresses

variable (hD : D.Addresses C)
include hD

/-- The addressing commands put the pointers at the start of the page and touch no display RAM (20_memory R53, R59). -/
theorem received_addressing (d : σ) (p : Fin 8) (b : Nat → Byte) :
    D.Received d p b 0
      (D.receiveItems C d [.command (C.cmdPage p), .command C.cmdColLo, .command C.cmdColHi]) := by
  obtain ⟨hpage, hcol, hram⟩ := hD.address d p
  refine ⟨fun _ => ⟨hpage, hcol⟩, fun q c => ?_⟩
  rw [if_neg (by omega)]
  exact congrFun (congrFun hram q) c

/-- One data byte goes to the next column (20_memory R59). -/
theorem Received.store {d₀ d : σ} {p k : Nat} {b : Nat → Byte} (h : D.Received d₀ p b k d) (hk : k < 128) :
    D.Received d₀ p b (k + 1) (D.receiveItems C d [.data (b k)]) := by
  obtain ⟨hpage, hcol⟩ := h.pointers hk
  refine ⟨fun hk' => ?_, fun q c => ?_⟩
  · obtain ⟨hpage', hcol'⟩ := hD.advance d (b k) (by omega)
    exact ⟨hpage'.trans hpage, hcol'.trans (by rw [hcol])⟩
  · refine (hD.store d (b k) (by omega) q c).trans ?_
    rw [h.ram, hpage, hcol]
    by_cases hc : q = p ∧ c = k
    · rw [if_pos hc, if_pos ⟨hc.1, by omega⟩, hc.2]
    · have hother : (q = p ∧ c < k + 1) ↔ (q = p ∧ c < k) := by omega
      simp only [if_neg hc, hother]

/-- The bytes of a page go to its columns in order. -/
theorem Received.storeMany {d₀ d : σ} {p : Nat} {b : Nat → Byte} (h : D.Received d₀ p b 0 d) {k : Nat}
    (hk : k ≤ 128) :
    D.Received d₀ p b k (D.receiveItems C d ((List.range k).map fun c => .data (b c))) := by
  induction k with
  | zero => exact h
  | succ k ih =>
    rw [List.range_succ, List.map_append, receiveItems_append]
    exact (ih (by omega)).store hD (by omega)

/-- The traffic of a page makes the display show it, and leaves every other page as it is (20_memory R59). -/
theorem shows_receive_page (m : Memory) (p : Fin 8) {q : Nat} {d : σ} (h : q = p ∨ D.Shows m q d) :
    D.Shows m q (D.receiveItems C d (pageItems C m p)) := by
  have hrow := (received_addressing hD d p fun c => memRead m (pageIndex p c)).storeMany hD (Nat.le_refl 128)
  intro c hc
  rw [pageItems, receiveItems_append]
  refine (hrow.ram q c).trans ?_
  split_ifs with hq
  · rw [hq.1]
  · exact h.resolve_left (fun hqp => hq ⟨hqp, hc⟩) c hc

/-- The traffic of a list of pages makes the display show each of them. -/
theorem shows_receive_pages (m : Memory) {q : Nat} (ps : List (Fin 8)) {d : σ}
    (h : (∃ p ∈ ps, q = p.val) ∨ D.Shows m q d) :
    D.Shows m q (D.receiveItems C d (ps.flatMap (pageItems C m))) := by
  induction ps generalizing d with
  | nil => exact h.resolve_left (by simp)
  | cons p ps ih =>
    rw [List.flatMap_cons, receiveItems_append]
    refine ih ?_
    rcases h with ⟨p', hp', hq⟩ | h
    · rcases List.mem_cons.mp hp' with rfl | hp'
      · exact .inr (shows_receive_page hD m p' (.inl hq))
      · exact .inl ⟨p', hp', hq⟩
    · exact .inr (shows_receive_page hD m p (.inr h))

/-- The traffic of a complete flush makes the display show every page (41_display_driver R132). -/
theorem shows_receive_flush (m : Memory) (d : σ) {q : Nat} (hq : q < 8) :
    D.Shows m q (D.receiveItems C d (flushItems C m)) :=
  shows_receive_pages hD m _ (.inl ⟨⟨q, hq⟩, List.mem_finRange _, rfl⟩)

end Addresses

end DisplayController

/-- Settles O47: each page of the traffic is addressed and then stored column by column. -/
theorem displayMirrorsTheFramebuffer : Obligations.DisplayMirrorsTheFramebuffer := by
  constructor
  · intro σ D C hD d s ha
    exact ⟨_, flushBody_trace_ok ha, fun p c hp hc => DisplayController.shows_receive_flush hD s.fb d hp c hc⟩
  · intro s t h hi hr
    obtain ⟨ha, hfb, htrace⟩ := effect_of_flush_answered hi h hr
    exact ⟨ha, hfb, htrace.trans (flushBody_trace_ok ha).symm⟩

end Sys2Proof.Machine
end

section
/-! PROOFS. The shape renderer: the square as pixels and as bytes, the borders, the current style, and the frame that
the two together leave and send (42_shape_renderer R150 to R160). -/

namespace Sys2Proof.Machine

/-! ### The sets of pixels the two drawing operations turn on -/

theorem getPixel_drawSquare_iff (m : Memory) (x y : Int) {px py : Int} (h : InRange px py) :
    getPixel (drawSquare m x y) px py = true ↔
      getPixel m px py = true ∨ InSquare (clamp x 0 120) (clamp y 0 56) px py := by
  simp only [getPixel_drawSquare m x y h, Bool.or_eq_true, decide_eq_true_eq]

theorem getPixel_drawBorder_iff (m : Memory) (st : Style) {px py : Int} (h : InRange px py) :
    getPixel (drawBorder m st) px py = true ↔ getPixel m px py = true ∨ OnBorder st px py := by
  simp only [getPixel_drawBorder m st h, Bool.or_eq_true, decide_eq_true_eq]

theorem inRange_of_inSquare {x y px py : Int} (h : InSquare (clamp x 0 120) (clamp y 0 56) px py) :
    InRange px py :=
  squarePixels_inRange x y (p := (px, py)) (by rwa [mem_squarePixels, squareLeft_eq, squareTop_eq])

theorem inRange_of_onBorder {st : Style} {px py : Int} (h : OnBorder st px py) : InRange px py :=
  borderPixels_inRange st (p := (px, py)) ((mem_borderPixels st px py).mpr h)

/-! ### DSQ -/

/-- Settles O29: `DSQ` draws the list of pixels that stands for the clamped square. -/
theorem dsqFillsTheClampedSquare : Obligations.DsqFillsTheClampedSquare := by
  refine ⟨fun xf yf => decode_formatP (coordsOk_toInt xf yf) rfl, fun x y s hf => ?_,
    fun _ _ _ hf => exec_of_fatal hf nofun⟩
  obtain ⟨t, ht, hfb, hframe⟩ := exec_of_newFb (i := .dsq x y) hf rfl
  refine ⟨t, ht, fun px py h => ?_, fun px py => inRange_of_inSquare, hframe⟩
  rw [hfb]
  exact getPixel_drawSquare_iff s.fb x y h

/-- A bit of the square's mask is on exactly when the pixel that the bit holds lies in the square
(20_memory R43, 42_shape_renderer R152). -/
theorem squareByte_getLsbD_iff (left top : Nat) (i : FbIndex) {b : Nat} (hb : b < 8) :
    (squareByte left top i).getLsbD b = true ↔
      InSquare left top ((i.toNat % 128 : Nat) : Int) ((8 * (i.toNat / 128) + b : Nat) : Int) := by
  have hones : 0xFF#8 = BitVec.allOnes 8 := rfl
  have hzero : (0x00 : Byte).getLsbD b = false := BitVec.getLsbD_zero
  simp only [squareByte, InSquare, hones]
  split_ifs with hcol hupper hlower
  · simp only [BitVec.getLsbD_shiftLeft, BitVec.getLsbD_allOnes, Bool.and_eq_true, Bool.not_eq_true',
      decide_eq_true_eq, decide_eq_false_iff_not]
    omega
  · simp only [BitVec.getLsbD_ushiftRight, BitVec.getLsbD_allOnes, decide_eq_true_eq]
    omega
  · simp only [hzero, Bool.false_eq_true, false_iff]
    omega
  · simp only [hzero, Bool.false_eq_true, false_iff]
    omega

/-- Every byte after the square (42_shape_renderer R152). -/
theorem memRead_drawSquare (m : Memory) (x y : Int) (i : FbIndex) :
    memRead (drawSquare m x y) i =
      memRead m i ||| squareByte (clamp x 0 120).toNat (clamp y 0 56).toNat i := by
  have hleft : ((clamp x 0 120).toNat : Int) = clamp x 0 120 := Int.toNat_of_nonneg (clamp_bounds (by decide)).1
  have htop : ((clamp y 0 56).toNat : Int) = clamp y 0 56 := Int.toNat_of_nonneg (clamp_bounds (by decide)).1
  apply BitVec.eq_of_getLsbD_eq
  intro b hb
  rw [BitVec.getLsbD_or, Bool.eq_iff_iff, Bool.or_eq_true, squareByte_getLsbD_iff _ _ i hb, hleft, htop,
    memRead_getLsbD _ i hb, memRead_getLsbD _ i hb]
  exact getPixel_drawSquare_iff m x y (pixel_of_bit i hb).1

/-- Settles O30: the bits of the mask are the pixels of the square. -/
theorem dsqBytesFollowTheMasks : Obligations.DsqBytesFollowTheMasks := by
  intro x y s hf
  obtain ⟨t, ht, hfb, -⟩ := exec_of_newFb (i := .dsq x y) hf rfl
  refine ⟨t, ht, fun i => ?_⟩
  rw [hfb]
  exact memRead_drawSquare s.fb x y i

/-- The square's corner is clamped already (42_shape_renderer R150, 90_conflicts C3). -/
theorem drawSquare_clamp (m : Memory) (x y : Int) :
    drawSquare m (clamp x 0 120) (clamp y 0 56) = drawSquare m x y := by
  simp only [drawSquare, squareLeft_eq, squareTop_eq, clamp_clamp (show (0 : Int) ≤ 120 by decide),
    clamp_clamp (show (0 : Int) ≤ 56 by decide)]

/-- Settles O31: `DSQ` sees its operands only through the clamp, which is idempotent. -/
theorem dsqClampsItsOperands : Obligations.DsqClampsItsOperands := by
  intro x y s
  simp only [exec, execDsq, drawSquare_clamp]

/-! ### DBRD and DBRDR -/

/-- Settles O32: `DBRD` draws the list of pixels that stands for the style's set. -/
theorem dbrdDrawsTheStylesPixels : Obligations.DbrdDrawsTheStylesPixels := by
  refine ⟨fun sty => encodedCommandDecodesBack (.dbrd sty) rfl, fun sty s hf => ?_,
    fun _ _ hf => exec_of_fatal hf nofun⟩
  obtain ⟨t, ht, hfb, hframe⟩ := exec_of_newFb (i := .dbrd sty) hf rfl
  refine ⟨t, ht, fun px py h => ?_, fun px py => inRange_of_onBorder, hframe⟩
  rw [hfb]
  exact getPixel_drawBorder_iff s.fb sty h

/-- `DBRDR` is `DBRD` of the style in STATUS, in every state (42_shape_renderer R157). -/
theorem exec_dbrdr_eq (s : State) : exec .dbrdr s = exec (.dbrd s.style) s := rfl

/-- Settles O33: what `DBRD` does, for the style in STATUS. -/
theorem dbrdrDrawsTheCurrentStyle : Obligations.DbrdrDrawsTheCurrentStyle := by
  obtain ⟨-, hdraws, hrefused⟩ := dbrdDrawsTheStylesPixels
  refine ⟨encodedCommandDecodesBack .dbrdr rfl, exec_dbrdr_eq, fun s hf => ?_, fun s => hrefused s.style s⟩
  obtain ⟨t, ht, hpixels, -, hframe⟩ := hdraws s.style s hf
  exact ⟨t, ht, hpixels, hframe⟩

/-! ### STNEXT -/

theorem nextStyle_toNat (st : Style) : (nextStyle st).toNat = (st.toNat + 1) % 4 := BitVec.toNat_add st 1

/-- The cycle of styles has length 4 (42_shape_renderer R158). -/
theorem nextStyle_four : ∀ st : Style, nextStyle (nextStyle (nextStyle (nextStyle st))) = st := by decide

theorem exec_stnext {s : State} (hf : s.fatal = false) :
    exec .stnext s = .next (respond .ok 0x00 (writeStyle (nextStyle s.style) s)) :=
  exec_of_effect (.style hf)

/-- Settles O34: `STNEXT` writes the next style and nothing else, and the next style has period 4. -/
theorem stnextCyclesTheStyle : Obligations.StnextCyclesTheStyle := by
  refine ⟨encodedCommandDecodesBack .stnext rfl, fun s hf => ?_, fun s hf => ?_, fun s hf => exec_of_fatal hf nofun⟩
  · exact ⟨_, exec_stnext hf, nextStyle_toNat s.style, rfl, rfl, rfl, rfl, ⟨rfl, rfl, rfl⟩, rfl, rfl⟩
  · exact ⟨_, _, _, _, exec_stnext hf, exec_stnext hf, exec_stnext hf, exec_stnext hf, nextStyle_four s.style⟩

/-! ### No command of the renderer erases -/

/-- The renderer's commands make of the framebuffer what drawing a list of pixels makes of it. -/
theorem newFb_of_renderer {i : Instr} {s : State} {m : Memory} (hm : newFb i s = some m)
    (hi : i.mnemonic ∈ [Mnemonic.DSQ, .DBRD, .DBRDR]) : ∃ ps, m = drawPixels s.fb ps := by
  cases i with
  | dsq | dbrd | dbrdr => exact ⟨_, (Option.some.inj hm).symm⟩
  | _ => simp [Instr.mnemonic] at hi

/-- Settles O35: drawing a list of pixels only sets bits, and a refusal leaves the framebuffer alone. -/
theorem rendererNeverErases : Obligations.RendererNeverErases := by
  intro i s t h hi j
  cases effect_of_exec h with
  | draw _ hm =>
    obtain ⟨ps, rfl⟩ := newFb_of_renderer hm hi
    exact drawPixels_keeps s.fb ps j
  | _ => exact BitVec.and_self

/-! ### FRAME -/

/-- A run goes on from where its first step leads. -/
theorem run_succ_of_step {s t : State} (h : step s = .next t) (k : Nat) :
    Host.Core.run Sys2Proof.core (k + 1) s = Host.Core.run Sys2Proof.core k t := by
  have hcore : Sys2Proof.core.step s = .next t := h
  simp only [Host.Core.run, hcore]

/-- The step that takes the word of a well-formed command runs that command (30_encoding R70). -/
theorem step_of_encode {i : Instr} {s : State} {rest : List HostInput} (hw : i.WellFormed)
    (hin : s.inputs = .word (encode i) :: rest) : step s = exec i { s with inputs := rest } :=
  step_of_command hin (encodedCommandDecodesBack i hw)

/-- The framebuffer that a drawing command makes does not depend on what the host does next. -/
theorem newFb_withInputs (i : Instr) (s : State) (rest : List HostInput) :
    newFb i { s with inputs := rest } = newFb i s := by
  cases i <;> rfl

/-- The state after a drawing command whose word was taken from the port: the framebuffer is `m`, the answer `OK`. -/
def afterDrawing (m : Memory) (s : State) : State :=
  respond .ok 0x00 (writeFb m { s with inputs := s.inputs.tail })

/-- The step that takes the word of a drawing command. -/
theorem step_of_drawing {i : Instr} {s : State} {m : Memory} {rest : List HostInput} (hw : i.WellFormed)
    (hf : s.fatal = false) (hin : s.inputs = .word (encode i) :: rest) (hm : newFb i s = some m) :
    step s = .next (afterDrawing m s) := by
  rw [step_of_encode hw hin, afterDrawing, hin]
  exact exec_of_effect (.draw hf ((newFb_withInputs i s rest).trans hm))

/-- The step that takes the word of `FLUSH` when every transaction is acknowledged (41_display_driver R127). -/
theorem step_of_flush {s : State} {rest : List HostInput} (hf : s.fatal = false) (hi : s.inited = true)
    (ha : AnswersOk s 1048) (hin : s.inputs = .word (encode .flush) :: rest) :
    step s = .next (respond .ok 0x00 (writeIoErr false (afterTraffic
      ((List.range 1048).map fun n => flushTransaction Config.machine s.fb n .ok) { s with inputs := rest }))) :=
  (step_of_encode rfl hin).trans (exec_flush_ok (s := { s with inputs := rest }) hf hi ha)

/-- The picture of `FRAME` (30_encoding R87). -/
def framePicture (sty : Style) (x y : Int) : Memory := drawSquare (drawBorder [] sty) x y

theorem getPixel_framePicture_iff (sty : Style) (x y : Int) {px py : Int} (h : InRange px py) :
    getPixel (framePicture sty x y) px py = true ↔
      OnBorder sty px py ∨ InSquare (clamp x 0 120) (clamp y 0 56) px py := by
  simp only [framePicture, getPixel_drawSquare_iff _ _ _ h, getPixel_drawBorder_iff _ _ h, getPixel_nil,
    Bool.false_eq_true, false_or]

/-- The state after the three drawing words of `FRAME`, from the state `s`. -/
def afterFrameDrawing (sty : Style) (x y : Int) (s : State) : State :=
  afterDrawing (framePicture sty x y) (afterDrawing (drawBorder [] sty) (afterDrawing [] s))

/-- The first three words of `FRAME` draw its picture (30_encoding R87). -/
theorem run_frame_drawing {sty : Style} {x y : Int} {s : State} {rest : List HostInput} (hx : coordOk x = true)
    (hy : coordOk y = true) (hf : s.fatal = false) (hin : s.inputs = presented (expand (.frame sty x y)) ++ rest)
    (k : Nat) :
    Host.Core.run Sys2Proof.core (k + 3) s = Host.Core.run Sys2Proof.core k (afterFrameDrawing sty x y s) := by
  have hxy : (coordOk x && coordOk y) = true := Bool.and_eq_true_iff.mpr ⟨hx, hy⟩
  have hclear : step s = .next (afterDrawing [] s) := step_of_drawing (i := .clear) rfl hf hin rfl
  have hborder : step (afterDrawing [] s) = .next (afterDrawing (drawBorder [] sty) (afterDrawing [] s)) :=
    step_of_drawing (i := .dbrd sty) rfl hf (congrArg List.tail hin) rfl
  have hsquare : step (afterDrawing (drawBorder [] sty) (afterDrawing [] s)) =
      .next (afterFrameDrawing sty x y s) :=
    step_of_drawing (i := .dsq x y) hxy hf (congrArg (·.tail.tail) hin) rfl
  exact (run_succ_of_step hclear _).trans ((run_succ_of_step hborder _).trans (run_succ_of_step hsquare _))

/-- Settles O36: three drawing words leave the picture and all that `FLUSH` needs, and the fourth word sends it. -/
theorem frameLeavesBorderAndSquare : Obligations.FrameLeavesBorderAndSquare := by
  intro sty x y s rest hx hy hf hi ha hin
  have hflush := step_of_flush (s := afterFrameDrawing sty x y s) hf hi ha (congrArg (·.tail.tail.tail) hin)
  refine ⟨_, (run_frame_drawing hx hy hf hin 1).trans (run_succ_of_step hflush 0),
    fun px py h => getPixel_framePicture_iff sty x y h, ?_, rfl, rfl, hi, hf, rfl, rfl⟩
  change (((s.responses ++ [0x0000]) ++ [0x0000]) ++ [0x0000]) ++ [0x0000] = _
  simp only [List.append_assoc, List.cons_append, List.nil_append]

end Sys2Proof.Machine
end

section
/-! PROOFS. Exceptions: every step goes on, which error a word is answered with, the FATAL state, and what an error
leaves behind (60_exceptions R180 to R193). -/

namespace Sys2Proof.Machine

/-! ### No trap -/

/-- Settles O14: each branch of `step` either names its next state or runs a command, and every command has one. -/
theorem everyStepHasANextState : Obligations.EveryStepHasANextState := by
  refine ⟨exec_next, fun s => ?_⟩
  match hin : s.inputs with
  | [] => exact ⟨_, step_of_no_input hin⟩
  | .word w :: rest =>
    match hd : decode w with
    | .command i =>
      obtain ⟨t, ht⟩ := exec_next i { s with inputs := rest }
      exact ⟨t, (step_of_command hin hd).trans ht⟩
    | .illegal why => exact ⟨_, step_of_illegal hin hd⟩
  | .reset :: rest => exact ⟨_, step_of_reset hin⟩
  | .resetDuring w :: rest => exact ⟨_, step_of_resetDuring hin⟩

/-! ### The code of a response -/

theorem codeValue_injective : Function.Injective codeValue := by
  intro c c' h
  cases c <;> cases c' <;> simp [codeValue] at h ⊢

/-- A response word determines its code and its data (30_encoding R81). -/
theorem responseWord_inj {c c' : ResponseCode} {d d' : Byte} (h : responseWord c d = responseWord c' d') :
    c = c' ∧ d = d' := by
  refine ⟨codeValue_injective ?_, ?_⟩
  · rw [← code_responseWord c d, h, code_responseWord]
  · rw [← data_responseWord c d, h, data_responseWord]

/-- A state that adds one response to another's adds only that one. -/
theorem responseWord_unique {s t : State} {c c' : ResponseCode} {d d' : Byte}
    (h : Answered s t (responseWord c d)) (h' : Answered s t (responseWord c' d')) : c = c' ∧ d = d' :=
  responseWord_inj (List.singleton_inj.mp (List.append_cancel_left (h.symm.trans h')))

/-- The command `i` in the state `s` is answered with the code `c`. -/
def AnswersCode (i : Instr) (s : State) (c : ResponseCode) : Prop :=
  ∃ t d, exec i s = .next t ∧ Answered s t (responseWord c d)

/-- A command is answered with at most one code (60_exceptions R188). -/
theorem AnswersCode.unique {i : Instr} {s : State} {c c' : ResponseCode} (h : AnswersCode i s c)
    (h' : AnswersCode i s c') : c = c' := by
  obtain ⟨t, d, ht, hr⟩ := h
  obtain ⟨t', d', ht', hr'⟩ := h'
  obtain rfl : t = t' := Host.Outcome.next.inj (ht.symm.trans ht')
  exact (responseWord_unique hr hr').1

/-- A failure among the next transactions has a first one. -/
theorem firstFail_of_fail {s : State} {n : Nat} (h : ∃ k < n, answerAt s k = .fail) : ∃ k < n, FirstFail s k := by
  refine (answers_cases s n).resolve_left fun hok => ?_
  obtain ⟨k, hk, hfail⟩ := h
  exact absurd (hfail.symm.trans (hok k hk)) nofun

theorem answersCode_rdst (s : State) : AnswersCode .rdst s .ok := ⟨_, _, exec_of_effect .status, rfl⟩

theorem answersCode_errFatal {i : Instr} {s : State} (hf : s.fatal = true) (hi : i ≠ .rdst) :
    AnswersCode i s .errFatal := ⟨_, _, exec_of_effect (.fatal hf hi), rfl⟩

section Ready

variable {s : State} (hf : s.fatal = false)
include hf

theorem answersCode_errState (hi : s.inited = true) : AnswersCode .init s .errState :=
  ⟨_, _, exec_of_effect (.initAgain hf hi), rfl⟩

theorem answersCode_errNoInit (hi : s.inited = false) : AnswersCode .flush s .errNoInit :=
  ⟨_, _, exec_of_effect (.flushEarly hf hi), rfl⟩

theorem answersCode_errInitFail (hi : s.inited = false) (h : ∃ k < Config.machine.nInit, answerAt s k = .fail) :
    AnswersCode .init s .errInitFail := by
  obtain ⟨k, hk, ha⟩ := firstFail_of_fail h
  exact ⟨_, _, exec_of_effect (.initFail (by rwa [initItems_length]) hf hi ha), rfl⟩

theorem answersCode_init_ok (hi : s.inited = false) (h : AnswersOk s Config.machine.nInit) :
    AnswersCode .init s .ok :=
  ⟨_, _, exec_of_effect (.initOk hf hi (by rwa [initItems_length])), rfl⟩

theorem answersCode_errIo (hi : s.inited = true) (h : ∃ k < 1048, answerAt s k = .fail) :
    AnswersCode .flush s .errIo := by
  obtain ⟨k, hk, ha⟩ := firstFail_of_fail h
  exact ⟨_, _, exec_of_effect (.flushFail (by rwa [flushItems_length]) hf hi ha), rfl⟩

theorem answersCode_flush_ok (hi : s.inited = true) (h : AnswersOk s 1048) : AnswersCode .flush s .ok :=
  ⟨_, _, exec_of_effect (.flushOk hf hi (by rwa [flushItems_length])), rfl⟩

/-- Outside the FATAL state only `INIT` and `FLUSH` can be answered with an error (60_exceptions R183 to R189). -/
theorem answersCode_ok {i : Instr} (hi : i ≠ .init) (hfl : i ≠ .flush) : AnswersCode i s .ok := by
  cases i with
  | init => exact absurd rfl hi
  | flush => exact absurd rfl hfl
  | rdb => exact ⟨_, _, exec_of_effect (.byte hf), rfl⟩
  | stnext => exact ⟨_, _, exec_of_effect (.style hf), rfl⟩
  | rdst => exact answersCode_rdst s
  | _ => exact ⟨_, _, exec_of_effect (.draw hf rfl), rfl⟩

end Ready

/-- Settles O16: for each condition the command's answer is known, and a command has one answer. -/
theorem errorPriorityDecidesTheCode : Obligations.ErrorPriorityDecidesTheCode := by
  intro s w rest hin
  match hd : decode w with
  | .illegal why => exact ⟨_, codeValue .errIllegal, 0x00, step_of_illegal hin hd, rfl, fun _ _ => rfl, nofun⟩
  | .command i =>
    obtain ⟨t, ht⟩ := exec_next i { s with inputs := rest }
    obtain ⟨c, hr⟩ := (effect_of_exec ht).responses_eq
    have hcode {c'} (h : AnswersCode i { s with inputs := rest } c') : codeValue c = codeValue c' :=
      congrArg codeValue (AnswersCode.unique ⟨t, _, ht, hr⟩ h)
    refine ⟨t, codeValue c, _, (step_of_command hin hd).trans ht, hr, nofun, fun j hj => ?_⟩
    cases hj
    refine ⟨fun hf hi => hcode (answersCode_errFatal hf hi), ?_, ?_, ?_, ?_,
      fun hf hi hfl => hcode (answersCode_ok (s := { s with inputs := rest }) hf hi hfl), ?_⟩
    · rintro hf rfl hi
      exact hcode (answersCode_errState hf hi)
    · rintro hf rfl hi
      exact hcode (answersCode_errNoInit hf hi)
    · rintro hf rfl hi
      exact ⟨fun h => hcode (answersCode_errInitFail hf hi h), fun h => hcode (answersCode_init_ok hf hi h)⟩
    · rintro hf rfl hi
      exact ⟨fun h => hcode (answersCode_errIo hf hi h), fun h => hcode (answersCode_flush_ok hf hi h)⟩
    · rintro rfl
      exact hcode (answersCode_rdst _)

/-! ### The FATAL state -/

/-- Only a failed `INIT` sets `FATAL` (60_exceptions R186, R187). -/
theorem Effect.of_fatal_set {i : Instr} {s t : State} (h : Effect i s t) (hs : s.fatal = false)
    (ht : t.fatal = true) :
    i = .init ∧ s.inited = false ∧ (∃ k < Config.machine.nInit, FirstFail s k) ∧ t.inited = false ∧
      t.style = s.style ∧ t.ioErr = s.ioErr ∧ t.fb = s.fb ∧ Answered s t 0x6000 := by
  cases h with
  | initFail hk _ hi ha =>
    rw [initItems_length] at hk
    exact ⟨rfl, hi, ⟨_, hk, ha⟩, hi, rfl, rfl, rfl, rfl⟩
  | _ => exact absurd (hs.symm.trans ht) nofun

/-- No command clears `FATAL` (10_state R27). -/
theorem Effect.fatal_of_fatal {i : Instr} {s t : State} (h : Effect i s t) (hs : s.fatal = true) :
    t.fatal = true := by
  cases h with
  | initFail => rfl
  | _ => exact hs

/-- The host's next input is a reset, or a word with a reset before its response. -/
def ResetPresented (s : State) : Prop :=
  ∃ rest, s.inputs = .reset :: rest ∨ ∃ w, s.inputs = .resetDuring w :: rest

/-- A step that is no reset stays in the FATAL state (60_exceptions R186). -/
theorem resetPresented_of_fatal_cleared {s t : State} (h : step s = .next t) (hs : s.fatal = true)
    (ht : t.fatal = false) : ResetPresented s := by
  have hstay : t.fatal ≠ true := by simp [ht]
  cases stepEffect_of_step h with
  | idle => exact absurd hs hstay
  | command _ _ he => exact absurd (he.fatal_of_fatal hs) hstay
  | illegal => exact absurd hs hstay
  | reset hin => exact ⟨_, .inl hin⟩
  | resetDuring hin => exact ⟨_, .inr ⟨_, hin⟩⟩

/-- Bit `n` of the data of a response word is bit `n` of the word (30_encoding R81). -/
theorem getLsbD_responseWord (c : ResponseCode) (d : Byte) {n : Nat} (hn : n < 8) :
    (responseWord c d).getLsbD n = d.getLsbD n := by
  rw [responseWord, BitVec.getLsbD_append, if_pos hn]

/-- Settles O17: the entry and the exit by the cases of what a command and a step can do, the stay by the gates. -/
theorem fatalStateEntryStayAndExit : Obligations.FatalStateEntryStayAndExit := by
  obtain ⟨-, -, -, -, hillegal⟩ := illegalWordsChangeNothing
  refine ⟨fun i s t h => (effect_of_exec h).of_fatal_set, fun i s hf hi => exec_of_fatal hf hi, fun s hf => ?_,
    fun s w rest _ hin hw => hillegal s w rest hin hw,
    fun s t h => resetPresented_of_fatal_cleared h⟩
  refine ⟨responseWord .ok (statusByte s), exec_of_effect .status, ?_, code_responseWord .ok _⟩
  obtain ⟨-, -, hfatal, -⟩ := statusLayout_fields s.ioErr s.fatal s.inited s.style
  exact (getLsbD_responseWord .ok _ (by decide)).trans (hfatal.trans hf)

/-! ### What an error leaves -/

/-- Settles O18: the error word fixes which effect it was, and the effect says what is left. -/
theorem errorsArePrecise : Obligations.ErrorsArePrecise := by
  intro i s t c d h hr hc
  cases effect_of_exec h with
  | fatal | initAgain | flushEarly =>
    obtain ⟨rfl, rfl⟩ := responseWord_unique hr rfl
    exact ⟨rfl, rfl, rfl, rfl, rfl, fun _ => rfl, nofun, nofun, nofun⟩
  | initFail =>
    obtain ⟨rfl, rfl⟩ := responseWord_unique hr rfl
    exact ⟨rfl, rfl, rfl, rfl, rfl, nofun, nofun, fun _ => ⟨rfl, rfl, rfl⟩, nofun⟩
  | flushFail =>
    obtain ⟨rfl, rfl⟩ := responseWord_unique hr rfl
    exact ⟨rfl, rfl, rfl, rfl, rfl, nofun, fun _ => ⟨rfl, rfl, rfl⟩, nofun, nofun⟩
  | _ => exact absurd (responseWord_unique hr rfl).1 hc

end Sys2Proof.Machine
end

section
/-! PROOFS. Reset: what it restores, that only it returns `FATAL` or `INITED` to 0, and a reset during a command
(70_reset_and_hazards R210, R211). -/

namespace Sys2Proof.Machine

/-- No command returns `INITED` to 0 (10_state R26). -/
theorem Effect.inited_of_inited {i : Instr} {s t : State} (h : Effect i s t) (hs : s.inited = true) :
    t.inited = true := by
  cases h with
  | initOk => rfl
  | _ => exact hs

/-- A step that is no reset leaves `INITED` set (70_reset_and_hazards R210). -/
theorem resetPresented_of_inited_cleared {s t : State} (h : step s = .next t) (hs : s.inited = true)
    (ht : t.inited = false) : ResetPresented s := by
  have hstay : t.inited ≠ true := by simp [ht]
  cases stepEffect_of_step h with
  | idle | illegal => exact absurd hs hstay
  | command _ _ he => exact absurd (he.inited_of_inited hs) hstay
  | reset hin => exact ⟨_, .inl hin⟩
  | resetDuring hin => exact ⟨_, .inr ⟨_, hin⟩⟩

/-- Settles O12: a reset leaves the values of 10_state R32, and no other step effect clears either bit. -/
theorem resetRestoresAndIsTheOnlyExit : Obligations.ResetRestoresAndIsTheOnlyExit := by
  refine ⟨fun s rest hin => ?_, fun s t h hcleared => ?_⟩
  · obtain ⟨hfb, hstyle, hinited, hfatal, hioErr, hresponses, htrace⟩ := resetLeavesTheStatedValues
    exact ⟨_, step_of_reset hin, hfb, hstyle, hinited, hfatal, hioErr, hresponses, htrace, rfl, rfl, rfl⟩
  · rcases hcleared with ⟨hs, ht⟩ | ⟨hs, ht⟩
    · exact resetPresented_of_fatal_cleared h hs ht
    · exact resetPresented_of_inited_cleared h hs ht

/-- Settles O13: the step that takes a reset during a command is the reset, and the word is not decoded. -/
theorem resetDuringACommandAbandonsIt : Obligations.ResetDuringACommandAbandonsIt :=
  fun _ _ _ hin => step_of_resetDuring hin

end Sys2Proof.Machine
end
